-- ==== Sys2Proof/Word.lean ====
section
/-! DEFINITION. The widths of the mini-mips: words, bytes, and the fields of an instruction word
(00_scope.md R7, 30_encoding.md R71). -/

namespace Sys2Proof

/-- A register, an address or an instruction: `RLEN` = 32 bits (R7). -/
abbrev Word := BitVec 32

/-- One byte of a memory: 8 bits (R41). -/
abbrev Byte := BitVec 8

/-- The number of one of the 32 general registers: `REG` = 5 bits (R7, R71). -/
abbrev RegNum := BitVec 5

/-- A shift distance: `SHAMT` = 5 bits (R7, R71). -/
abbrev Shamt := BitVec 5

/-- The field `I-imm` (R71). -/
abbrev Imm16 := BitVec 16

/-- The field `J-imm` (R71). -/
abbrev Imm26 := BitVec 26

/-- The index of one of the 256 words of a memory: address bits 9:2 (R42, R46, R48, R49). -/
abbrev WordIndex := BitVec 8

end Sys2Proof
end

