-- ==== Sys2Proof/Machine/Flags.lean ====
section
/-! DEFINITION. The machine has NO flags and no condition codes (10_state.md R28): comparison results go into a general
register. This file holds the two comparisons that stand in their place (44_arith_logic.md R147). -/

namespace Sys2Proof.Machine

/-- `if signed(a) < signed(b) then 0x00000001 else 0x00000000`, exact on the integers (R147, D11). -/
def setLessSigned (a b : Word) : Word := if a.toInt < b.toInt then 0x00000001#32 else 0x00000000#32

/-- `if unsigned(a) < unsigned(b) then 0x00000001 else 0x00000000` (R147, D11). -/
def setLessUnsigned (a b : Word) : Word := if a.toNat < b.toNat then 0x00000001#32 else 0x00000000#32

end Sys2Proof.Machine
end

