-- ==== Sys2Proof/Config.lean ====
section
/-! DEFINITION. The named parameters the spec leaves open (00_scope.md R7, 92_eei_decisions.md) and the free
values. The parameters are plain data, carried by State and fixed by `Config.default` only at `State.reset`, so that
a statement about every state is a statement about every setting (log 1). -/

namespace Sys2Proof

/-- ENDIAN (R51, D9): the order of a word's four bytes at its four byte addresses. No program can observe it. -/
inductive Endian where
  /-- The least significant byte has the lowest address. -/
  | little
  /-- The most significant byte has the lowest address. -/
  | big
deriving DecidableEq, Repr

/-- MISALIGNED_DATA (R50, D7): what LW and SW do where address bits 1:0 are not zero. -/
inductive MisalignedData where
  /-- The model fault MisalignedData. -/
  | fault
  /-- Address bits 1:0 are ignored: the access is to the word at bits 9:2. -/
  | forceAlign
deriving DecidableEq, Repr

/-- What LW gives for a data word that nothing has written (R60, D12, U5). -/
inductive UnwrittenData where
  /-- The model fault UninitialisedRead: the spec's default. -/
  | fault
  /-- "a free 32-bit draw": the word holds some value, `Config.unwrittenWord`, of which nothing is known. -/
  | freeDraw
deriving DecidableEq, Repr

/-- I_PC_OFFSET (R100, R110, D4): what is added to the address of a J, JAL or BEQ to give the base of its target. -/
inductive PcOffset where
  /-- 0: the base is the instruction's own address. -/
  | zero
  /-- 4: the base is the address of the next instruction. -/
  | four
deriving DecidableEq, Repr

/-- The parameters of one machine (R7). IMEM_IMAGE and DMEM_INIT are arguments of `State.powerOn`, END_OF_RUN of
`runUntil`. -/
structure Config where
  /-- RESET_PC: the value pc takes under reset (R32, R190, D5). -/
  resetPc : Word
  /-- I_PC_OFFSET (D4). -/
  iPcOffset : PcOffset
  /-- STRICT_NA (R80, D2): whether a non-zero bit of a field Figure 3 marks N/A makes the word illegal. -/
  strictNa : Bool
  /-- MISALIGNED_DATA (D7). -/
  misalignedData : MisalignedData
  /-- Which of R60's two treatments a data word that nothing has written gets (D12). -/
  unwrittenData : UnwrittenData
  /-- ENDIAN (D9). -/
  endian : Endian
deriving DecidableEq, Repr

/-- The defaults of R7. DESIGN CHOICE, unsafe: the values are the spec's decisions D2, D4, D5, D7, D12, and `little` for
ENDIAN, which has no default (log 2 to 7). -/
def Config.default : Config :=
  { resetPc := 0x00000000#32, iPcOffset := .zero, strictNa := false, misalignedData := .fault,
    unwrittenData := .fault, endian := .little }

/-- FREE VALUE (log 7): the word a data-memory location holds before anything has written it, where
`Config.unwrittenData` is `freeDraw` (R60, U5). -/
opaque Config.unwrittenWord : WordIndex → Word

/-- FREE VALUE (log 27): what the register bank's edge gives while its input `i_en` is 0, which the source declares and
never describes (91_not_in_source.md N7). Arguments: a number that each edge is given afresh, so that the value may depend
on anything, the bank's earlier outputs among it (a bank that holds them is one case); the contents, `i_we`, `i_addr_ra`,
`i_addr_rb`, `i_addr_w`, `i_data_w`. Result: the contents and the two outputs. -/
opaque Config.rfIdle :
  Nat → Vector Word 32 → Bool → RegNum → RegNum → RegNum → Word → Vector Word 32 × Word × Word

end Sys2Proof
end

