-- ==== Sys2Proof/Syntax.lean ====
section
/-! DEFINITION. The instructions: one constructor per row of Figure 3 (30_encoding.md R79), in its order. A
constructor holds every field of its format as R82's decode gives them, the fields Figure 3 marks N/A among them
(log 35): R-type `rs rt rd shamt`, I-type `rs rt imm16`, J-type `imm26`. -/

namespace Sys2Proof

/-- The 27 instructions of the mini-mips (R2, R79). -/
inductive Instr where
  /-- Jump (R101). -/
  | j (imm26 : Imm26)
  /-- Jump And Link (R102). -/
  | jal (imm26 : Imm26)
  /-- Jump And Link Register (R103); `rt` and `shamt` are N/A. -/
  | jalr (rs rt rd : RegNum) (shamt : Shamt)
  /-- Branch On Equal (R111). -/
  | beq (rs rt : RegNum) (imm16 : Imm16)
  /-- Load Word (R121). -/
  | lw (rs rt : RegNum) (imm16 : Imm16)
  /-- Store Word (R122). -/
  | sw (rs rt : RegNum) (imm16 : Imm16)
  /-- Load Upper Immediate (R132); `rs` is N/A. -/
  | lui (rs rt : RegNum) (imm16 : Imm16)
  /-- Add Immediate, sign-extended (R133). -/
  | addi (rs rt : RegNum) (imm16 : Imm16)
  /-- Add Immediate Unsigned, zero-extended (R134). -/
  | addiu (rs rt : RegNum) (imm16 : Imm16)
  /-- Add (R135); `shamt` is N/A. -/
  | add (rs rt rd : RegNum) (shamt : Shamt)
  /-- Subtract (R136); `shamt` is N/A. -/
  | sub (rs rt rd : RegNum) (shamt : Shamt)
  /-- Shift Left Logical (R161); `rs` is N/A. -/
  | sll (rs rt rd : RegNum) (shamt : Shamt)
  /-- Shift Right Logical (R162); `rs` is N/A. -/
  | srl (rs rt rd : RegNum) (shamt : Shamt)
  /-- Shift Right Arithmetic (R163); `rs` is N/A. -/
  | sra (rs rt rd : RegNum) (shamt : Shamt)
  /-- Shift Left Logical Variable (R164); `shamt` is N/A. -/
  | sllv (rs rt rd : RegNum) (shamt : Shamt)
  /-- Shift Right Logical Variable (R165); `shamt` is N/A. -/
  | srlv (rs rt rd : RegNum) (shamt : Shamt)
  /-- Shift Right Arithmetic Variable (R166); `shamt` is N/A. -/
  | srav (rs rt rd : RegNum) (shamt : Shamt)
  /-- Set Less Than Immediate, signed (R143). -/
  | slti (rs rt : RegNum) (imm16 : Imm16)
  /-- Set Less Than Immediate Unsigned, zero-extended (R144). -/
  | sltiu (rs rt : RegNum) (imm16 : Imm16)
  /-- Set Less Than, signed (R145); `shamt` is N/A. -/
  | slt (rs rt rd : RegNum) (shamt : Shamt)
  /-- Set Less Than Unsigned (R146); `shamt` is N/A. -/
  | sltu (rs rt rd : RegNum) (shamt : Shamt)
  /-- Exclusive Or Immediate (R139). -/
  | xori (rs rt : RegNum) (imm16 : Imm16)
  /-- Or Immediate (R138). -/
  | ori (rs rt : RegNum) (imm16 : Imm16)
  /-- And Immediate (R137). -/
  | andi (rs rt : RegNum) (imm16 : Imm16)
  /-- Exclusive Or (R142); `shamt` is N/A. -/
  | xor (rs rt rd : RegNum) (shamt : Shamt)
  /-- Or (R141); `shamt` is N/A. -/
  | or (rs rt rd : RegNum) (shamt : Shamt)
  /-- And (R140); `shamt` is N/A. -/
  | and (rs rt rd : RegNum) (shamt : Shamt)
deriving DecidableEq, Repr

end Sys2Proof
end

