-- ==== Sys2Proof/WellFormed.lean ====
section
/-! DEFINITION. Which instructions are legal. Every field's width is in its type; what is left to check is
STRICT_NA (30_encoding.md R80): when it is true, the fields Figure 3 marks N/A must be zero. -/

namespace Sys2Proof

/-- The fields Figure 3 marks N/A are all zero (R79, R80). -/
def Instr.naFieldsZero : Instr → Bool
  | .jalr _ rt _ shamt => rt == 0#5 && shamt == 0#5
  | .lui rs _ _ => rs == 0#5
  | .sll rs _ _ _ => rs == 0#5
  | .srl rs _ _ _ => rs == 0#5
  | .sra rs _ _ _ => rs == 0#5
  | .add _ _ _ shamt => shamt == 0#5
  | .sub _ _ _ shamt => shamt == 0#5
  | .sllv _ _ _ shamt => shamt == 0#5
  | .srlv _ _ _ shamt => shamt == 0#5
  | .srav _ _ _ shamt => shamt == 0#5
  | .slt _ _ _ shamt => shamt == 0#5
  | .sltu _ _ _ shamt => shamt == 0#5
  | .xor _ _ _ shamt => shamt == 0#5
  | .or _ _ _ shamt => shamt == 0#5
  | .and _ _ _ shamt => shamt == 0#5
  | .j _ => true
  | .jal _ => true
  | .beq _ _ _ => true
  | .lw _ _ _ => true
  | .sw _ _ _ => true
  | .addi _ _ _ => true
  | .addiu _ _ _ => true
  | .slti _ _ _ => true
  | .sltiu _ _ _ => true
  | .xori _ _ _ => true
  | .ori _ _ _ => true
  | .andi _ _ _ => true

/-- An instruction is well formed under a setting of STRICT_NA (R80): under `false` every one is. -/
def Instr.wellFormed (strictNa : Bool) (i : Instr) : Bool :=
  !strictNa || i.naFieldsZero

end Sys2Proof
end

