-- ==== Sys2Proof/Decode.lean ====
section
/-! DEFINITION. Decoding and encoding (30_encoding.md). `decode` is R82, total on 32-bit words; `encode` lays the
fields out as R72 to R74 give the formats; `Instr.row` is Figure 3's row of an instruction (R79). -/

namespace Sys2Proof

/-- Why a word is no instruction. -/
inductive DecodeError where
  /-- `op` is none of the 14 values of R77 (R81). -/
  | unknownOp (op : BitVec 6)
  /-- `op` is 000000 and `funct` is none of the 14 values of R78 (R81). -/
  | unknownFunct (funct : BitVec 6)
  /-- STRICT_NA is true and a field Figure 3 marks N/A is not zero (R80). -/
  | nonZeroNa (w : Word)
  /-- Fewer than the four bytes of an instruction were given (R70). -/
  | truncated
deriving DecidableEq, Repr

/-! ### The fields of an instruction word (R72 to R76) -/

/-- `op = w[31:26]`. -/
def opField (w : Word) : BitVec 6 := w.extractLsb' 26 6

/-- `rs = w[25:21]`. -/
def rsField (w : Word) : RegNum := w.extractLsb' 21 5

/-- `rt = w[20:16]`. -/
def rtField (w : Word) : RegNum := w.extractLsb' 16 5

/-- `rd = w[15:11]`. -/
def rdField (w : Word) : RegNum := w.extractLsb' 11 5

/-- `shamt = w[10:6]`. -/
def shamtField (w : Word) : Shamt := w.extractLsb' 6 5

/-- `funct = w[5:0]`. -/
def functField (w : Word) : BitVec 6 := w.extractLsb' 0 6

/-- `imm16 = w[15:0]`. -/
def imm16Field (w : Word) : Imm16 := w.extractLsb' 0 16

/-- `imm26 = w[25:0]`. -/
def imm26Field (w : Word) : Imm26 := w.extractLsb' 0 26

/-! ### Decode (R77, R78, R82) -/

/-- The R-type instruction a function code selects (R78). -/
def decodeFunct (funct : BitVec 6) (rs rt rd : RegNum) (shamt : Shamt) : Option Instr :=
  match funct.toNat with
  | 0b000000 => some (.sll rs rt rd shamt)
  | 0b000010 => some (.srl rs rt rd shamt)
  | 0b000011 => some (.sra rs rt rd shamt)
  | 0b000100 => some (.sllv rs rt rd shamt)
  | 0b000110 => some (.srlv rs rt rd shamt)
  | 0b000111 => some (.srav rs rt rd shamt)
  | 0b001001 => some (.jalr rs rt rd shamt)
  | 0b100000 => some (.add rs rt rd shamt)
  | 0b100010 => some (.sub rs rt rd shamt)
  | 0b100100 => some (.and rs rt rd shamt)
  | 0b100101 => some (.or rs rt rd shamt)
  | 0b100110 => some (.xor rs rt rd shamt)
  | 0b101010 => some (.slt rs rt rd shamt)
  | 0b101011 => some (.sltu rs rt rd shamt)
  | _ => none

/-- The I- or J-type instruction a primary opcode selects (R77). -/
def decodeOp (op : BitVec 6) (rs rt : RegNum) (imm16 : Imm16) (imm26 : Imm26) : Option Instr :=
  match op.toNat with
  | 0b000010 => some (.j imm26)
  | 0b000011 => some (.jal imm26)
  | 0b000100 => some (.beq rs rt imm16)
  | 0b001000 => some (.addi rs rt imm16)
  | 0b001001 => some (.addiu rs rt imm16)
  | 0b001010 => some (.slti rs rt imm16)
  | 0b001011 => some (.sltiu rs rt imm16)
  | 0b001100 => some (.andi rs rt imm16)
  | 0b001101 => some (.ori rs rt imm16)
  | 0b001110 => some (.xori rs rt imm16)
  | 0b001111 => some (.lui rs rt imm16)
  | 0b100011 => some (.lw rs rt imm16)
  | 0b101011 => some (.sw rs rt imm16)
  | _ => none

/-- The row of Figure 3 a word matches, read with its fields; the bits of N/A fields play no part (R80, R82). -/
def decodeRow (w : Word) : Except DecodeError Instr :=
  if opField w = 0b000000#6 then
    match decodeFunct (functField w) (rsField w) (rtField w) (rdField w) (shamtField w) with
    | some i => .ok i
    | none => .error (.unknownFunct (functField w))
  else
    match decodeOp (opField w) (rsField w) (rtField w) (imm16Field w) (imm26Field w) with
    | some i => .ok i
    | none => .error (.unknownOp (opField w))

/-- R82: the instruction of a word, under a setting of STRICT_NA. -/
def decode (strictNa : Bool) (w : Word) : Except DecodeError Instr :=
  match decodeRow w with
  | .error e => .error e
  | .ok i => if i.wellFormed strictNa then .ok i else .error (.nonZeroNa w)

/-! ### Words as bytes (R41, R51) -/

/-- The word four bytes make, the first at the lowest address. No program can observe the order (R51, log 6). -/
def wordOfBytes (e : Endian) (b0 b1 b2 b3 : Byte) : Word :=
  match e with
  | .little => b3 ++ b2 ++ b1 ++ b0
  | .big => b0 ++ b1 ++ b2 ++ b3

/-- The byte of a word at the offset `j` (0 to 3) from the word's lowest byte address. -/
def byteOfWord (e : Endian) (w : Word) (j : Nat) : Byte :=
  match e with
  | .little => w.extractLsb' (8 * j) 8
  | .big => w.extractLsb' (8 * (3 - j)) 8

/-- Decoding from bytes, total on any list: the instruction of the first four bytes and the bytes that follow. -/
def decodeBytes (strictNa : Bool) (e : Endian) : List Byte → Except DecodeError (Instr × List Byte)
  | b0 :: b1 :: b2 :: b3 :: rest =>
    match decode strictNa (wordOfBytes e b0 b1 b2 b3) with
    | .ok i => .ok (i, rest)
    | .error d => .error d
  | _ => .error .truncated

/-- The host's question: the instruction the decoder reads from an opcode-table row's bits (bit 0 least significant,
the bits above `nbits` zero), laid out as four bytes and given to `decodeBytes` under the default parameters. -/
def decodeTableWord (nbits w : Nat) : Option Instr :=
  let word := BitVec.ofNat 32 (w % 2 ^ nbits)
  let e := Config.default.endian
  match decodeBytes Config.default.strictNa e
      [byteOfWord e word 0, byteOfWord e word 1, byteOfWord e word 2, byteOfWord e word 3] with
  | .ok (i, _) => some i
  | .error _ => none

/-! ### Encode (R72 to R74, R79) -/

/-- R72: `op` = 000000, `rs`, `rt`, `rd`, `shamt`, `funct`. -/
def rType (rs rt rd : RegNum) (shamt : Shamt) (funct : BitVec 6) : Word :=
  0b000000#6 ++ rs ++ rt ++ rd ++ shamt ++ funct

/-- R73: `op`, `rs`, `rt`, `I-imm`. -/
def iType (op : BitVec 6) (rs rt : RegNum) (imm16 : Imm16) : Word :=
  op ++ rs ++ rt ++ imm16

/-- R74: `op`, `J-imm`. -/
def jType (op : BitVec 6) (imm26 : Imm26) : Word :=
  op ++ imm26

/-- The word of an instruction (R79, codes of R77 and R78). -/
def encode : Instr → Word
  | .j imm26 => jType 0b000010#6 imm26
  | .jal imm26 => jType 0b000011#6 imm26
  | .jalr rs rt rd shamt => rType rs rt rd shamt 0b001001#6
  | .beq rs rt imm16 => iType 0b000100#6 rs rt imm16
  | .lw rs rt imm16 => iType 0b100011#6 rs rt imm16
  | .sw rs rt imm16 => iType 0b101011#6 rs rt imm16
  | .lui rs rt imm16 => iType 0b001111#6 rs rt imm16
  | .addi rs rt imm16 => iType 0b001000#6 rs rt imm16
  | .addiu rs rt imm16 => iType 0b001001#6 rs rt imm16
  | .add rs rt rd shamt => rType rs rt rd shamt 0b100000#6
  | .sub rs rt rd shamt => rType rs rt rd shamt 0b100010#6
  | .sll rs rt rd shamt => rType rs rt rd shamt 0b000000#6
  | .srl rs rt rd shamt => rType rs rt rd shamt 0b000010#6
  | .sra rs rt rd shamt => rType rs rt rd shamt 0b000011#6
  | .sllv rs rt rd shamt => rType rs rt rd shamt 0b000100#6
  | .srlv rs rt rd shamt => rType rs rt rd shamt 0b000110#6
  | .srav rs rt rd shamt => rType rs rt rd shamt 0b000111#6
  | .slti rs rt imm16 => iType 0b001010#6 rs rt imm16
  | .sltiu rs rt imm16 => iType 0b001011#6 rs rt imm16
  | .slt rs rt rd shamt => rType rs rt rd shamt 0b101010#6
  | .sltu rs rt rd shamt => rType rs rt rd shamt 0b101011#6
  | .xori rs rt imm16 => iType 0b001110#6 rs rt imm16
  | .ori rs rt imm16 => iType 0b001101#6 rs rt imm16
  | .andi rs rt imm16 => iType 0b001100#6 rs rt imm16
  | .xor rs rt rd shamt => rType rs rt rd shamt 0b100110#6
  | .or rs rt rd shamt => rType rs rt rd shamt 0b100101#6
  | .and rs rt rd shamt => rType rs rt rd shamt 0b100100#6

/-! ### Figure 3 (R79) -/

/-- One row of R79: the word's fixed bits (`w and mask = match`) and the mask under STRICT_NA. -/
structure Row where
  /-- The mnemonic. -/
  mnemonic : String
  /-- The column "match". -/
  matchBits : Word
  /-- The column "mask": `op`, and `funct` for R-type. -/
  mask : Word
  /-- The column "strict mask": the N/A fields too. -/
  strictMask : Word
deriving DecidableEq, Repr

/-- The row of R79 an instruction stands in. -/
def Instr.row : Instr → Row
  | .j _ => ⟨"J", 0x08000000#32, 0xFC000000#32, 0xFC000000#32⟩
  | .jal _ => ⟨"JAL", 0x0C000000#32, 0xFC000000#32, 0xFC000000#32⟩
  | .jalr _ _ _ _ => ⟨"JALR", 0x00000009#32, 0xFC00003F#32, 0xFC1F07FF#32⟩
  | .beq _ _ _ => ⟨"BEQ", 0x10000000#32, 0xFC000000#32, 0xFC000000#32⟩
  | .lw _ _ _ => ⟨"LW", 0x8C000000#32, 0xFC000000#32, 0xFC000000#32⟩
  | .sw _ _ _ => ⟨"SW", 0xAC000000#32, 0xFC000000#32, 0xFC000000#32⟩
  | .lui _ _ _ => ⟨"LUI", 0x3C000000#32, 0xFC000000#32, 0xFFE00000#32⟩
  | .addi _ _ _ => ⟨"ADDI", 0x20000000#32, 0xFC000000#32, 0xFC000000#32⟩
  | .addiu _ _ _ => ⟨"ADDIU", 0x24000000#32, 0xFC000000#32, 0xFC000000#32⟩
  | .add _ _ _ _ => ⟨"ADD", 0x00000020#32, 0xFC00003F#32, 0xFC0007FF#32⟩
  | .sub _ _ _ _ => ⟨"SUB", 0x00000022#32, 0xFC00003F#32, 0xFC0007FF#32⟩
  | .sll _ _ _ _ => ⟨"SLL", 0x00000000#32, 0xFC00003F#32, 0xFFE0003F#32⟩
  | .srl _ _ _ _ => ⟨"SRL", 0x00000002#32, 0xFC00003F#32, 0xFFE0003F#32⟩
  | .sra _ _ _ _ => ⟨"SRA", 0x00000003#32, 0xFC00003F#32, 0xFFE0003F#32⟩
  | .sllv _ _ _ _ => ⟨"SLLV", 0x00000004#32, 0xFC00003F#32, 0xFC0007FF#32⟩
  | .srlv _ _ _ _ => ⟨"SRLV", 0x00000006#32, 0xFC00003F#32, 0xFC0007FF#32⟩
  | .srav _ _ _ _ => ⟨"SRAV", 0x00000007#32, 0xFC00003F#32, 0xFC0007FF#32⟩
  | .slti _ _ _ => ⟨"SLTI", 0x28000000#32, 0xFC000000#32, 0xFC000000#32⟩
  | .sltiu _ _ _ => ⟨"SLTIU", 0x2C000000#32, 0xFC000000#32, 0xFC000000#32⟩
  | .slt _ _ _ _ => ⟨"SLT", 0x0000002A#32, 0xFC00003F#32, 0xFC0007FF#32⟩
  | .sltu _ _ _ _ => ⟨"SLTU", 0x0000002B#32, 0xFC00003F#32, 0xFC0007FF#32⟩
  | .xori _ _ _ => ⟨"XORI", 0x38000000#32, 0xFC000000#32, 0xFC000000#32⟩
  | .ori _ _ _ => ⟨"ORI", 0x34000000#32, 0xFC000000#32, 0xFC000000#32⟩
  | .andi _ _ _ => ⟨"ANDI", 0x30000000#32, 0xFC000000#32, 0xFC000000#32⟩
  | .xor _ _ _ _ => ⟨"XOR", 0x00000026#32, 0xFC00003F#32, 0xFC0007FF#32⟩
  | .or _ _ _ _ => ⟨"OR", 0x00000025#32, 0xFC00003F#32, 0xFC0007FF#32⟩
  | .and _ _ _ _ => ⟨"AND", 0x00000024#32, 0xFC00003F#32, 0xFC0007FF#32⟩

/-- The 27 rows of R79 in the order of Figure 3. -/
def figure3 : List Row :=
  [(Instr.j 0).row, (Instr.jal 0).row, (Instr.jalr 0 0 0 0).row, (Instr.beq 0 0 0).row, (Instr.lw 0 0 0).row,
   (Instr.sw 0 0 0).row, (Instr.lui 0 0 0).row, (Instr.addi 0 0 0).row, (Instr.addiu 0 0 0).row,
   (Instr.add 0 0 0 0).row, (Instr.sub 0 0 0 0).row, (Instr.sll 0 0 0 0).row, (Instr.srl 0 0 0 0).row,
   (Instr.sra 0 0 0 0).row, (Instr.sllv 0 0 0 0).row, (Instr.srlv 0 0 0 0).row, (Instr.srav 0 0 0 0).row,
   (Instr.slti 0 0 0).row, (Instr.sltiu 0 0 0).row, (Instr.slt 0 0 0 0).row, (Instr.sltu 0 0 0 0).row,
   (Instr.xori 0 0 0).row, (Instr.ori 0 0 0).row, (Instr.andi 0 0 0).row, (Instr.xor 0 0 0 0).row,
   (Instr.or 0 0 0 0).row, (Instr.and 0 0 0 0).row]

end Sys2Proof
end

