-- ==== Sys2Proof/Machine/State.lean ====
section
/-! DEFINITION. The machine's state as plain data (10_state.md R20), why a step can stop (60_exceptions.md R172), and
the state after reset (10_state.md R32). -/

namespace Sys2Proof.Machine

/-- A memory of 1024 byte addresses (R42) as a list of (address, byte) pairs in one canonical form: addresses strictly
rising (`Memory.wf`). An address that is not listed holds NO value (D12, D13; log 7, 8). -/
abbrev Memory := List Host.Cell

/-- The model faults of R172, the complete list. None is an event of the hardware: each marks a situation for which the
source gives the hardware no behaviour, and the model stops there, having changed nothing (R175). Each is safe: a run
that reaches one proves nothing about what the hardware does next. -/
inductive Fault where
  /-- Raised by `step` (decode): the fetched word matches no row of Figure 3, or STRICT_NA holds and an N/A field is
  not zero (R81, R82, D3, D2). Safe. -/
  | illegalInstruction (pc w : Word)
  /-- Raised by `step` (fetch): `pc[1:0]` is not zero (R33, D8). Safe. -/
  | misalignedFetch (pc : Word)
  /-- Raised by `step` (fetch): the word `pc[9:2]` of the instruction memory is not loaded (R46, D13). Safe. -/
  | unloadedFetch (pc : Word)
  /-- Raised by LW and SW: address bits 1:0 are not zero and MISALIGNED_DATA is `fault` (R50, D7). Safe. -/
  | misalignedData (a : Word)
  /-- Raised by LW: the data word holds no value and the parameters ask for the fault (R60, D12). Safe. -/
  | uninitialisedRead (a : Word)
deriving DecidableEq, Repr

/-- Refusals. No meaning of this model answers with one. -/
inductive Refusal where
  /-- Raised by an arm of `exec` for an instruction that has no meaning yet; no arm does. Safe. -/
  | notModelled (mnemonic : String)
deriving DecidableEq, Repr

/-- The machine's state: R20's registers, program counter and data memory, the instruction memory (R45) and the
machine's parameters (R7, log 1). There is no flag, status, control, mode or exception register (R28, R29, R170,
R176). -/
structure State where
  /-- The register bank (R21). Slot 0 stands for `x[0]`: it is never written and never read (`State.readReg`,
  `State.writeReg`). -/
  regs : Vector Word 32
  /-- The program counter: while an instruction executes, its own address (R25). -/
  pc : Word
  /-- The data memory DMEM (R40, R48, R49). -/
  dmem : Memory
  /-- The instruction memory IMEM (R40, R45, R46). -/
  imem : Memory
  /-- The machine's parameters (R7); no step changes them. -/
  cfg : Config
deriving DecidableEq, Repr

/-- The machine right after reset (R32, R190), with the default parameters (log 2 to 6), no program loaded (log 9)
and no data word holding a value (log 7). -/
def State.reset : State :=
  { regs := Vector.replicate 32 0x00000000#32
    pc := Config.default.resetPc
    dmem := []
    imem := []
    cfg := Config.default }

end Sys2Proof.Machine
end

