-- ==== Sys2Proof/Machine/Ops.lean ====
section
/-! DEFINITION. The named operations over memory and registers (20_memory.md R46 to R50, R60; 10_state.md R21, R22,
R26). The hardware has no exception and no return from one (60_exceptions.md R170, R177), so no operation here takes
or leaves one. -/

namespace Sys2Proof.Machine

/-! ### One byte of a memory (R41) -/

/-- The byte at an address; `none` where the address holds no value. -/
def readByte : Memory → Nat → Option Byte
  | [], _ => none
  | (k, b) :: m, a => if a = k then some b else readByte m a

/-- The memory with the byte at an address replaced, in canonical form. -/
def writeByte : Memory → Nat → Byte → Memory
  | [], a, v => [(a, v)]
  | (k, b) :: m, a, v =>
    if a < k then (a, v) :: (k, b) :: m
    else if a = k then (a, v) :: m
    else (k, b) :: writeByte m a v

/-- The canonical form: addresses strictly rising, and every address one of the 1024 (R42). -/
abbrev Memory.wf (m : Memory) : Prop :=
  m.Pairwise (fun c d => c.1 < d.1) ∧ ∀ c ∈ m, c.1 < 1024

/-- Every word of the memory holds a value in all four bytes or in none: the memories move whole words (R49, R52). -/
abbrev Memory.wholeWords (m : Memory) : Prop :=
  ∀ k < 256, ∀ j < 4, (readByte m (4 * k + j)).isSome = (readByte m (4 * k)).isSome

/-! ### One word of a memory (R41, R42, R52) -/

/-- The lowest byte address of a word: word `k` occupies `4k` to `4k+3` (R42). -/
def byteAddress (k : WordIndex) : Nat := 4 * k.toNat

/-- The word `k` of a memory; `none` where one of its bytes holds no value. -/
def readWord (e : Endian) (m : Memory) (k : WordIndex) : Option Word :=
  match readByte m (byteAddress k), readByte m (byteAddress k + 1), readByte m (byteAddress k + 2),
    readByte m (byteAddress k + 3) with
  | some b0, some b1, some b2, some b3 => some (wordOfBytes e b0 b1 b2 b3)
  | _, _, _, _ => none

/-- The memory with all 32 bits of the word `k` replaced (R49). -/
def writeWord (e : Endian) (m : Memory) (k : WordIndex) (w : Word) : Memory :=
  writeByte (writeByte (writeByte (writeByte m (byteAddress k) (byteOfWord e w 0)) (byteAddress k + 1) (byteOfWord e w 1))
    (byteAddress k + 2) (byteOfWord e w 2)) (byteAddress k + 3) (byteOfWord e w 3)

/-! ### Addresses (R47, R50) -/

/-- The word an address names: bits 9:2. Bits 31:10 do not reach the bus (R47, D6). -/
def wordIndex (a : Word) : WordIndex := a.extractLsb' 2 8

/-- `a[1:0] != 0b00` (R33, R50). -/
def misaligned (a : Word) : Bool := a.extractLsb' 0 2 != 0b00#2

/-! ### Updates of the state -/

/-- `pc <- t` (R10). -/
def State.setPc (s : State) (t : Word) : State := { s with pc := t }

/-- The state with another register bank. -/
def State.setRegs (s : State) (r : Vector Word 32) : State := { s with regs := r }

/-- The state with another data memory. -/
def State.setDmem (s : State) (m : Memory) : State := { s with dmem := m }

/-- The state with another instruction memory: the environment's loading (R45), never an instruction's effect. -/
def State.setImem (s : State) (m : Memory) : State := { s with imem := m }

/-! ### Registers (R21, R22) -/

/-- The register `r` of a bank: register 0 always reads 0 (R21). -/
def readBank (regs : Vector Word 32) (r : RegNum) : Word :=
  if r = 0#5 then 0x00000000#32 else regs[r.toNat]

/-- The bank with register `d` written: a write to register 0 is discarded (R22). -/
def writeBank (regs : Vector Word 32) (d : RegNum) (v : Word) : Vector Word 32 :=
  if d = 0#5 then regs else regs.set d.toNat v

/-- `x[r]` (R10, R21). -/
def State.readReg (s : State) (r : RegNum) : Word := readBank s.regs r

/-- `x[d] <- v` (R10, R22). -/
def State.writeReg (s : State) (d : RegNum) (v : Word) : State := s.setRegs (writeBank s.regs d v)

/-- `pc <- pc + 4`, modulo 2^32 (R26, D24). -/
def State.advance (s : State) : State := s.setPc (s.pc + 4#32)

/-- The end of every instruction that only computes a register: write the destination, advance (R26, R27). -/
def State.writeBack (s : State) (d : RegNum) (v : Word) : Host.Outcome State Fault Refusal :=
  .next (s.writeReg d v).advance

/-! ### The accesses (R46, R48, R49) -/

/-- R46, `IFetch(a)`. -/
def State.ifetch (s : State) (a : Word) : Except Fault Word :=
  match readWord s.cfg.endian s.imem (wordIndex a) with
  | some w => .ok w
  | none => .error (.unloadedFetch a)

/-- Whether a data access at `a` raises MisalignedData (R50): only where MISALIGNED_DATA is `fault`. -/
def State.dataMisaligned (s : State) (a : Word) : Bool :=
  misaligned a && s.cfg.misalignedData == .fault

/-- R48, `MemRead(a, 4)`; a word that nothing has written is treated as the parameters say (R60). -/
def State.memRead (s : State) (a : Word) : Except Fault Word :=
  if s.dataMisaligned a then .error (.misalignedData a)
  else
    match readWord s.cfg.endian s.dmem (wordIndex a) with
    | some w => .ok w
    | none =>
      match s.cfg.unwrittenData with
      | .fault => .error (.uninitialisedRead a)
      | .freeDraw => .ok (Config.unwrittenWord (wordIndex a))

/-- R49, `MemWrite(a, 4, v)`. -/
def State.memWrite (s : State) (a v : Word) : Except Fault State :=
  if s.dataMisaligned a then .error (.misalignedData a)
  else .ok (s.setDmem (writeWord s.cfg.endian s.dmem (wordIndex a) v))

end Sys2Proof.Machine
end

