-- ==== Sys2Proof/Machine/Operands.lean ====
section
/-! DEFINITION. The operand forms: immediates (30_encoding.md R76), targets (41_jumps.md R100, 42_branches.md R110),
the effective address (43_loadstore.md R120), the shift distance (45_shifts.md R160), and which register each
instruction reads and writes (10_state.md R24). -/

namespace Sys2Proof.Machine

/-- `sext_32(imm16)` (R10, R76). -/
def sext32 (imm16 : Imm16) : Word := imm16.signExtend 32

/-- `zext_32(imm16)` (R10, R76). -/
def zext32 (imm16 : Imm16) : Word := imm16.setWidth 32

/-- `imm16 ++ 0x0000` (R132). -/
def upperImmediate (imm16 : Imm16) : Word := imm16 ++ 0x0000#16

/-- The link value `pc + 4` of JAL and JALR, modulo 2^32 (R102, R103, R193). -/
def linkAddress (pc : Word) : Word := pc + 4#32

/-- The value of I_PC_OFFSET (R7, D4). -/
def pcOffsetValue (o : PcOffset) : Word :=
  match o with
  | .zero => 0#32
  | .four => 4#32

/-- `pc + I_PC_OFFSET`: the base of a jump or branch target (R100, R110), the value of the PC module's `i_pc` (R203). -/
def targetBase (cfg : Config) (pc : Word) : Word := pc + pcOffsetValue cfg.iPcOffset

/-- R100: `jump_target(pc, imm26)`. -/
def jumpTarget (cfg : Config) (pc : Word) (imm26 : Imm26) : Word :=
  (targetBase cfg pc).extractLsb' 28 4 ++ imm26 ++ 0b00#2

/-- R110: `branch_target(pc, imm16)`. -/
def branchTarget (cfg : Config) (pc : Word) (imm16 : Imm16) : Word :=
  targetBase cfg pc + (sext32 imm16 <<< 2)

/-- R120: `ea(rs, imm16)`, from the value of the base register. -/
def effectiveAddress (base : Word) (imm16 : Imm16) : Word := base + sext32 imm16

/-- R160 (c): the distance of a variable shift, bits 4:0 of `x[rs]`. -/
def shiftDistance (v : Word) : Shamt := v.extractLsb' 0 5

/-- The column "writes" of R24: the register an instruction writes. -/
def destination : Instr → Option RegNum
  | .j _ => none
  | .jal _ => some 31#5
  | .jalr _ _ rd _ => some rd
  | .beq _ _ _ => none
  | .lw _ rt _ => some rt
  | .sw _ _ _ => none
  | .lui _ rt _ => some rt
  | .addi _ rt _ => some rt
  | .addiu _ rt _ => some rt
  | .add _ _ rd _ => some rd
  | .sub _ _ rd _ => some rd
  | .sll _ _ rd _ => some rd
  | .srl _ _ rd _ => some rd
  | .sra _ _ rd _ => some rd
  | .sllv _ _ rd _ => some rd
  | .srlv _ _ rd _ => some rd
  | .srav _ _ rd _ => some rd
  | .slti _ rt _ => some rt
  | .sltiu _ rt _ => some rt
  | .slt _ _ rd _ => some rd
  | .sltu _ _ rd _ => some rd
  | .xori _ rt _ => some rt
  | .ori _ rt _ => some rt
  | .andi _ rt _ => some rt
  | .xor _ _ rd _ => some rd
  | .or _ _ rd _ => some rd
  | .and _ _ rd _ => some rd

/-- The column "reads" of R24: the registers whose value an instruction uses. -/
def sources : Instr → List RegNum
  | .j _ => []
  | .jal _ => []
  | .jalr rs _ _ _ => [rs]
  | .beq rs rt _ => [rs, rt]
  | .lw rs _ _ => [rs]
  | .sw rs rt _ => [rs, rt]
  | .lui _ _ _ => []
  | .addi rs _ _ => [rs]
  | .addiu rs _ _ => [rs]
  | .add rs rt _ _ => [rs, rt]
  | .sub rs rt _ _ => [rs, rt]
  | .sll _ rt _ _ => [rt]
  | .srl _ rt _ _ => [rt]
  | .sra _ rt _ _ => [rt]
  | .sllv rs rt _ _ => [rt, rs]
  | .srlv rs rt _ _ => [rt, rs]
  | .srav rs rt _ _ => [rt, rs]
  | .slti rs _ _ => [rs]
  | .sltiu rs _ _ => [rs]
  | .slt rs rt _ _ => [rs, rt]
  | .sltu rs rt _ _ => [rs, rt]
  | .xori rs _ _ => [rs]
  | .ori rs _ _ => [rs]
  | .andi rs _ _ => [rs]
  | .xor rs rt _ _ => [rs, rt]
  | .or rs rt _ _ => [rs, rt]
  | .and rs rt _ _ => [rs, rt]

end Sys2Proof.Machine
end

