-- ==== Sys2Proof/Machine/ArithLogic.lean ====
section
/-! DEFINITION. The arithmetic and logic operations (44_arith_logic.md). Sums and differences are modulo 2^32 and
nothing detects overflow (R131). -/

namespace Sys2Proof.Machine

/-- The shape `x[rd] <- f(x[rs], x[rt])` of the R-type operations (R24, R26). -/
def State.registerOp (s : State) (f : Word → Word → Word) (rs rt rd : RegNum) : Host.Outcome State Fault Refusal :=
  s.writeBack rd (f (s.readReg rs) (s.readReg rt))

/-- The shape `x[rt] <- f(x[rs], v)` of the I-type operations, `v` the extended immediate (R24, R26). -/
def State.immediateOp (s : State) (f : Word → Word → Word) (rs rt : RegNum) (v : Word) :
    Host.Outcome State Fault Refusal :=
  s.writeBack rt (f (s.readReg rs) v)

/-- R132, LUI. -/
def execLui (rt : RegNum) (imm16 : Imm16) (s : State) : Host.Outcome State Fault Refusal :=
  s.writeBack rt (upperImmediate imm16)

/-- R133, ADDI. -/
def execAddi (rs rt : RegNum) (imm16 : Imm16) (s : State) : Host.Outcome State Fault Refusal :=
  s.immediateOp (· + ·) rs rt (sext32 imm16)

/-- R134, ADDIU: the immediate is ZERO-extended (D25). -/
def execAddiu (rs rt : RegNum) (imm16 : Imm16) (s : State) : Host.Outcome State Fault Refusal :=
  s.immediateOp (· + ·) rs rt (zext32 imm16)

/-- R135, ADD. -/
def execAdd (rs rt rd : RegNum) (s : State) : Host.Outcome State Fault Refusal :=
  s.registerOp (· + ·) rs rt rd

/-- R136, SUB. -/
def execSub (rs rt rd : RegNum) (s : State) : Host.Outcome State Fault Refusal :=
  s.registerOp (· - ·) rs rt rd

/-- R137, ANDI. -/
def execAndi (rs rt : RegNum) (imm16 : Imm16) (s : State) : Host.Outcome State Fault Refusal :=
  s.immediateOp (· &&& ·) rs rt (zext32 imm16)

/-- R138, ORI. -/
def execOri (rs rt : RegNum) (imm16 : Imm16) (s : State) : Host.Outcome State Fault Refusal :=
  s.immediateOp (· ||| ·) rs rt (zext32 imm16)

/-- R139, XORI. -/
def execXori (rs rt : RegNum) (imm16 : Imm16) (s : State) : Host.Outcome State Fault Refusal :=
  s.immediateOp (· ^^^ ·) rs rt (zext32 imm16)

/-- R140, AND. -/
def execAnd (rs rt rd : RegNum) (s : State) : Host.Outcome State Fault Refusal :=
  s.registerOp (· &&& ·) rs rt rd

/-- R141, OR. -/
def execOr (rs rt rd : RegNum) (s : State) : Host.Outcome State Fault Refusal :=
  s.registerOp (· ||| ·) rs rt rd

/-- R142, XOR. -/
def execXor (rs rt rd : RegNum) (s : State) : Host.Outcome State Fault Refusal :=
  s.registerOp (· ^^^ ·) rs rt rd

/-- R143, SLTI: signed comparison with the sign-extended immediate. -/
def execSlti (rs rt : RegNum) (imm16 : Imm16) (s : State) : Host.Outcome State Fault Refusal :=
  s.immediateOp setLessSigned rs rt (sext32 imm16)

/-- R144, SLTIU: unsigned comparison with the ZERO-extended immediate (D25). -/
def execSltiu (rs rt : RegNum) (imm16 : Imm16) (s : State) : Host.Outcome State Fault Refusal :=
  s.immediateOp setLessUnsigned rs rt (zext32 imm16)

/-- R145, SLT. -/
def execSlt (rs rt rd : RegNum) (s : State) : Host.Outcome State Fault Refusal :=
  s.registerOp setLessSigned rs rt rd

/-- R146, SLTU. -/
def execSltu (rs rt rd : RegNum) (s : State) : Host.Outcome State Fault Refusal :=
  s.registerOp setLessUnsigned rs rt rd

end Sys2Proof.Machine
end

