-- ==== Sys2Proof/Machine/Branch.lean ====
section
/-! DEFINITION. The conditional branch BEQ (42_branches.md). There is no delay slot (R193). -/

namespace Sys2Proof.Machine

/-- R111, BEQ. -/
def execBeq (rs rt : RegNum) (imm16 : Imm16) (s : State) : Host.Outcome State Fault Refusal :=
  if s.readReg rs = s.readReg rt then .next (s.setPc (branchTarget s.cfg s.pc imm16)) else .next s.advance

end Sys2Proof.Machine
end

