-- ==== Sys2Proof/Machine/Jumps.lean ====
section
/-! DEFINITION. The unconditional branches J, JAL, JALR (41_jumps.md). There is no delay slot (R193). -/

namespace Sys2Proof.Machine

/-- R101, J. -/
def execJ (imm26 : Imm26) (s : State) : Host.Outcome State Fault Refusal :=
  .next (s.setPc (jumpTarget s.cfg s.pc imm26))

/-- R102, JAL: the target is computed from the old pc. -/
def execJal (imm26 : Imm26) (s : State) : Host.Outcome State Fault Refusal :=
  .next ((s.writeReg 31#5 (linkAddress s.pc)).setPc (jumpTarget s.cfg s.pc imm26))

/-- R103, JALR: `x[rs]` is read before the link is written (D17). -/
def execJalr (rs rd : RegNum) (s : State) : Host.Outcome State Fault Refusal :=
  .next ((s.writeReg rd (linkAddress s.pc)).setPc (s.readReg rs))

end Sys2Proof.Machine
end

