-- ==== Sys2Proof/Machine/LoadStore.lean ====
section
/-! DEFINITION. The data-memory accesses LW and SW (43_loadstore.md). On a model fault nothing is written (R175). -/

namespace Sys2Proof.Machine

/-- R121, LW: the memory is read also where `rt` is 0 (R22). -/
def execLw (rs rt : RegNum) (imm16 : Imm16) (s : State) : Host.Outcome State Fault Refusal :=
  match s.memRead (effectiveAddress (s.readReg rs) imm16) with
  | .ok v => s.writeBack rt v
  | .error f => .fault f

/-- R122, SW. -/
def execSw (rs rt : RegNum) (imm16 : Imm16) (s : State) : Host.Outcome State Fault Refusal :=
  match s.memWrite (effectiveAddress (s.readReg rs) imm16) (s.readReg rt) with
  | .ok t => .next t.advance
  | .error f => .fault f

end Sys2Proof.Machine
end

