-- ==== Sys2Proof/Machine/Shifts.lean ====
section
/-! DEFINITION. The six shifts (45_shifts.md). The value is `x[rt]`, the result goes to `x[rd]`, the distance is 0 to 31
(R160). -/

namespace Sys2Proof.Machine

/-- `v << s`: zero fill (R10, R160). -/
def shiftLeft (v : Word) (s : Shamt) : Word := v <<< s.toNat

/-- `v >>l s`: zero fill (R10, R160). -/
def shiftRightLogical (v : Word) (s : Shamt) : Word := v >>> s.toNat

/-- `v >>a s`: fill with copies of bit 31 (R10, R160). -/
def shiftRightArith (v : Word) (s : Shamt) : Word := v.sshiftRight s.toNat

/-- R161, SLL. -/
def execSll (rt rd : RegNum) (shamt : Shamt) (s : State) : Host.Outcome State Fault Refusal :=
  s.writeBack rd (shiftLeft (s.readReg rt) shamt)

/-- R162, SRL. -/
def execSrl (rt rd : RegNum) (shamt : Shamt) (s : State) : Host.Outcome State Fault Refusal :=
  s.writeBack rd (shiftRightLogical (s.readReg rt) shamt)

/-- R163, SRA. -/
def execSra (rt rd : RegNum) (shamt : Shamt) (s : State) : Host.Outcome State Fault Refusal :=
  s.writeBack rd (shiftRightArith (s.readReg rt) shamt)

/-- R164, SLLV. -/
def execSllv (rs rt rd : RegNum) (s : State) : Host.Outcome State Fault Refusal :=
  s.writeBack rd (shiftLeft (s.readReg rt) (shiftDistance (s.readReg rs)))

/-- R165, SRLV. -/
def execSrlv (rs rt rd : RegNum) (s : State) : Host.Outcome State Fault Refusal :=
  s.writeBack rd (shiftRightLogical (s.readReg rt) (shiftDistance (s.readReg rs)))

/-- R166, SRAV. -/
def execSrav (rs rt rd : RegNum) (s : State) : Host.Outcome State Fault Refusal :=
  s.writeBack rd (shiftRightArith (s.readReg rt) (shiftDistance (s.readReg rs)))

end Sys2Proof.Machine
end

