-- ==== Sys2Proof/Machine/Dispatch.lean ====
section
/-! DEFINITION. One arm per instruction, each one direct call of its meaning. The fields Figure 3 marks N/A are not
passed on: the instruction ignores them (30_encoding.md R80). -/

namespace Sys2Proof.Machine

def exec (i : Instr) (s : State) : Host.Outcome State Fault Refusal :=
  match i with
  | .j imm26 => Sys2Proof.Machine.execJ imm26 s
  | .jal imm26 => Sys2Proof.Machine.execJal imm26 s
  | .jalr rs _ rd _ => Sys2Proof.Machine.execJalr rs rd s
  | .beq rs rt imm16 => Sys2Proof.Machine.execBeq rs rt imm16 s
  | .lw rs rt imm16 => Sys2Proof.Machine.execLw rs rt imm16 s
  | .sw rs rt imm16 => Sys2Proof.Machine.execSw rs rt imm16 s
  | .lui _ rt imm16 => Sys2Proof.Machine.execLui rt imm16 s
  | .addi rs rt imm16 => Sys2Proof.Machine.execAddi rs rt imm16 s
  | .addiu rs rt imm16 => Sys2Proof.Machine.execAddiu rs rt imm16 s
  | .add rs rt rd _ => Sys2Proof.Machine.execAdd rs rt rd s
  | .sub rs rt rd _ => Sys2Proof.Machine.execSub rs rt rd s
  | .sll _ rt rd shamt => Sys2Proof.Machine.execSll rt rd shamt s
  | .srl _ rt rd shamt => Sys2Proof.Machine.execSrl rt rd shamt s
  | .sra _ rt rd shamt => Sys2Proof.Machine.execSra rt rd shamt s
  | .sllv rs rt rd _ => Sys2Proof.Machine.execSllv rs rt rd s
  | .srlv rs rt rd _ => Sys2Proof.Machine.execSrlv rs rt rd s
  | .srav rs rt rd _ => Sys2Proof.Machine.execSrav rs rt rd s
  | .slti rs rt imm16 => Sys2Proof.Machine.execSlti rs rt imm16 s
  | .sltiu rs rt imm16 => Sys2Proof.Machine.execSltiu rs rt imm16 s
  | .slt rs rt rd _ => Sys2Proof.Machine.execSlt rs rt rd s
  | .sltu rs rt rd _ => Sys2Proof.Machine.execSltu rs rt rd s
  | .xori rs rt imm16 => Sys2Proof.Machine.execXori rs rt imm16 s
  | .ori rs rt imm16 => Sys2Proof.Machine.execOri rs rt imm16 s
  | .andi rs rt imm16 => Sys2Proof.Machine.execAndi rs rt imm16 s
  | .xor rs rt rd _ => Sys2Proof.Machine.execXor rs rt rd s
  | .or rs rt rd _ => Sys2Proof.Machine.execOr rs rt rd s
  | .and rs rt rd _ => Sys2Proof.Machine.execAnd rs rt rd s

end Sys2Proof.Machine
end

