-- ==== Sys2Proof/Machine/Fetch.lean ====
section
/-! DEFINITION. Fetching and decoding the instruction at an address: the first three lines of R27 (10_state.md), their
checks in the order of 60_exceptions.md R174. -/

namespace Sys2Proof.Machine

/-- The word at an address, or MisalignedFetch (R33), or UnloadedFetch (R46). -/
def State.fetchWord (s : State) (a : Word) : Except Fault Word :=
  if misaligned a then .error (.misalignedFetch a) else s.ifetch a

/-- The instruction of a word fetched from an address, or IllegalInstruction (R81, R82). -/
def State.decodeAt (s : State) (a w : Word) : Except Fault Instr :=
  match decode s.cfg.strictNa w with
  | .ok i => .ok i
  | .error _ => .error (.illegalInstruction a w)

/-- The instruction at an address. -/
def State.fetchInstr (s : State) (a : Word) : Except Fault Instr :=
  match s.fetchWord a with
  | .ok w => s.decodeAt a w
  | .error f => .error f

/-- Where a fetch at `a` finds a word: IMEM's word at bits 9:2 replaced by `w`, in the machine's byte order. -/
def State.placeWord (s : State) (a w : Word) : State :=
  s.setImem (writeWord s.cfg.endian s.imem (wordIndex a) w)

/-- An address with bits 1:0 cleared. -/
def alignWord (a : Word) : Word := a.extractLsb' 2 30 ++ 0b00#2

end Sys2Proof.Machine
end

