-- ==== Sys2Proof/Machine/Step.lean ====
section
/-! DEFINITION. One step of the machine (10_state.md R27): fetch and decode at pc, then run the instruction. -/

namespace Sys2Proof.Machine

/-- R27. A model fault changes nothing (R175): the outcome carries no state. -/
def step (s : State) : Host.Outcome State Fault Refusal :=
  match s.fetchInstr s.pc with
  | .ok i => exec i s
  | .error f => .fault f

/-- The state with one instruction of the opcode table (its bits `w`, those from `nbits` up zero) stored where the next
step fetches. pc is made a multiple of 4 where it is not, since no fetch is defined elsewhere (R33). It stands for the
loading of the program by the environment (log 9). -/
def State.withFetchWord (s : State) (nbits w : Nat) : State :=
  (s.setPc (alignWord s.pc)).placeWord (alignWord s.pc) (BitVec.ofNat 32 (w % 2 ^ nbits))

end Sys2Proof.Machine
end

