-- ==== Sys2Proof/Machine/Assembler.lean ====
section
/-! DEFINITION. The assembler's side of the encoding (30_encoding.md R85, R86; 10_state.md R23): register names, the
order in which an assembly line names its operands, how a label becomes a field, and the three pseudo-instructions. No
rule of the hardware depends on it. -/

namespace Sys2Proof.Machine

/-- R23: the conventional register names. PRESUMED (the spec's general knowledge G1), but for `$0` and `$ra` (log 23). -/
def registerNames : List (String × RegNum) :=
  [("$0", 0), ("$zero", 0), ("$at", 1), ("$v0", 2), ("$v1", 3), ("$a0", 4), ("$a1", 5), ("$a2", 6), ("$a3", 7),
   ("$t0", 8), ("$t1", 9), ("$t2", 10), ("$t3", 11), ("$t4", 12), ("$t5", 13), ("$t6", 14), ("$t7", 15),
   ("$s0", 16), ("$s1", 17), ("$s2", 18), ("$s3", 19), ("$s4", 20), ("$s5", 21), ("$s6", 22), ("$s7", 23),
   ("$t8", 24), ("$t9", 25), ("$k0", 26), ("$k1", 27), ("$gp", 28), ("$sp", 29), ("$fp", 30), ("$s8", 30),
   ("$ra", 31)]

/-- The number of a named register (R23). -/
def registerNumber (name : String) : Option RegNum :=
  (registerNames.find? (fun p => p.1 == name)).map Prod.snd

/-- An assembly line, its operands in the order R85 gives; a label is the byte address it stands for. -/
inductive Asm where
  /-- `j label` -/
  | j (label : Word)
  /-- `jal label` -/
  | jal (label : Word)
  /-- `jalr rd, rs` -/
  | jalr (rd rs : RegNum)
  /-- `beq rs, rt, label` -/
  | beq (rs rt : RegNum) (label : Word)
  /-- `lw rt, imm(rs)` -/
  | lw (rt : RegNum) (imm : Imm16) (rs : RegNum)
  /-- `sw rt, imm(rs)` -/
  | sw (rt : RegNum) (imm : Imm16) (rs : RegNum)
  /-- `lui rt, imm` -/
  | lui (rt : RegNum) (imm : Imm16)
  /-- `addi rt, rs, imm` -/
  | addi (rt rs : RegNum) (imm : Imm16)
  /-- `addiu rt, rs, imm` -/
  | addiu (rt rs : RegNum) (imm : Imm16)
  /-- `slti rt, rs, imm` -/
  | slti (rt rs : RegNum) (imm : Imm16)
  /-- `sltiu rt, rs, imm` -/
  | sltiu (rt rs : RegNum) (imm : Imm16)
  /-- `andi rt, rs, imm` -/
  | andi (rt rs : RegNum) (imm : Imm16)
  /-- `ori rt, rs, imm` -/
  | ori (rt rs : RegNum) (imm : Imm16)
  /-- `xori rt, rs, imm` -/
  | xori (rt rs : RegNum) (imm : Imm16)
  /-- `add rd, rs, rt` -/
  | add (rd rs rt : RegNum)
  /-- `sub rd, rs, rt` -/
  | sub (rd rs rt : RegNum)
  /-- `slt rd, rs, rt` -/
  | slt (rd rs rt : RegNum)
  /-- `sltu rd, rs, rt` -/
  | sltu (rd rs rt : RegNum)
  /-- `and rd, rs, rt` -/
  | and (rd rs rt : RegNum)
  /-- `or rd, rs, rt` -/
  | or (rd rs rt : RegNum)
  /-- `xor rd, rs, rt` -/
  | xor (rd rs rt : RegNum)
  /-- `sll rd, rt, shamt` -/
  | sll (rd rt : RegNum) (shamt : Shamt)
  /-- `srl rd, rt, shamt` -/
  | srl (rd rt : RegNum) (shamt : Shamt)
  /-- `sra rd, rt, shamt` -/
  | sra (rd rt : RegNum) (shamt : Shamt)
  /-- `sllv rd, rt, rs` -/
  | sllv (rd rt rs : RegNum)
  /-- `srlv rd, rt, rs` -/
  | srlv (rd rt rs : RegNum)
  /-- `srav rd, rt, rs` -/
  | srav (rd rt rs : RegNum)
  /-- The pseudo-instruction `nop` (R86). -/
  | nop
  /-- The pseudo-instruction `li rt, imm32` (R86). -/
  | li (rt : RegNum) (imm : Word)
  /-- The pseudo-instruction `beqz r, label` (R86). -/
  | beqz (r : RegNum) (label : Word)
deriving DecidableEq, Repr

/-- R85: `imm26 = target[27:2]`. -/
def jumpField (label : Word) : Imm26 := label.extractLsb' 2 26

/-- R85: `imm16 = (target − (pc + I_PC_OFFSET)) / 4`, for a branch at `pc`. DESIGN CHOICE (log 38): R85 gives the field for a
branch that reaches its label; for a label out of reach, or not a multiple of 4 from the base, the model keeps bits 17:2 of
the difference, where an assembler could refuse the line. -/
def branchField (cfg : Config) (pc label : Word) : Imm16 := (label - targetBase cfg pc).extractLsb' 2 16

/-- R85, R86: the instructions of a line that stands at `pc`. Unused fields are zeros (R80); `li` always makes two
instructions and always overwrites `$t0` (D20). -/
def assemble (cfg : Config) (pc : Word) : Asm → List Instr
  | .j label => [.j (jumpField label)]
  | .jal label => [.jal (jumpField label)]
  | .jalr rd rs => [.jalr rs 0 rd 0]
  | .beq rs rt label => [.beq rs rt (branchField cfg pc label)]
  | .lw rt imm rs => [.lw rs rt imm]
  | .sw rt imm rs => [.sw rs rt imm]
  | .lui rt imm => [.lui 0 rt imm]
  | .addi rt rs imm => [.addi rs rt imm]
  | .addiu rt rs imm => [.addiu rs rt imm]
  | .slti rt rs imm => [.slti rs rt imm]
  | .sltiu rt rs imm => [.sltiu rs rt imm]
  | .andi rt rs imm => [.andi rs rt imm]
  | .ori rt rs imm => [.ori rs rt imm]
  | .xori rt rs imm => [.xori rs rt imm]
  | .add rd rs rt => [.add rs rt rd 0]
  | .sub rd rs rt => [.sub rs rt rd 0]
  | .slt rd rs rt => [.slt rs rt rd 0]
  | .sltu rd rs rt => [.sltu rs rt rd 0]
  | .and rd rs rt => [.and rs rt rd 0]
  | .or rd rs rt => [.or rs rt rd 0]
  | .xor rd rs rt => [.xor rs rt rd 0]
  | .sll rd rt shamt => [.sll 0 rt rd shamt]
  | .srl rd rt shamt => [.srl 0 rt rd shamt]
  | .sra rd rt shamt => [.sra 0 rt rd shamt]
  | .sllv rd rt rs => [.sllv rs rt rd 0]
  | .srlv rd rt rs => [.srlv rs rt rd 0]
  | .srav rd rt rs => [.srav rs rt rd 0]
  | .nop => [.sll 0 0 0 0]
  | .li rt imm => [.lui 0 8 (imm.extractLsb' 16 16), .ori 8 rt (imm.extractLsb' 0 16)]
  | .beqz r label => [.beq r 0 (branchField cfg pc label)]

end Sys2Proof.Machine
end

