-- ==== Sys2Proof/Machine/Environment.lean ====
section
/-! DEFINITION. What the environment can do to the machine (70_reset_and_hazards.md R190 to R192): load the program
before the run and assert the reset input. Neither is part of `step`; each lands between two steps (log 9, 30). -/

namespace Sys2Proof.Machine

/-- The words of a program image stored from the word index `k` on (R45, D14); an index past 255 is not reached by
`loadImage`. -/
def loadFrom (e : Endian) : Nat → List Word → Memory → Memory
  | _, [], m => m
  | k, w :: ws, m => loadFrom e (k + 1) ws (writeWord e m (BitVec.ofNat 8 k) w)

/-- IMEM_IMAGE (R45, D14): word `i` of the list at byte address `4·i`, at most 256 words; the rest of IMEM is not
loaded (D13). -/
def loadImage (e : Endian) (image : List Word) : Memory := loadFrom e 0 (image.take 256) []

/-- DMEM_INIT (R60, D12): the words that hold a value at the start, by word index. -/
def initData (e : Endian) : List (WordIndex × Word) → Memory
  | [] => []
  | (k, w) :: rest => writeWord e (initData e rest) k w

/-- R190: the input `i_rstn` at 0. Every register becomes 0 and pc becomes RESET_PC; the memories have no reset. -/
def State.assertReset (s : State) : State :=
  (s.setRegs (Vector.replicate 32 0x00000000#32)).setPc s.cfg.resetPc

/-- The start of a run (R32, R190, R191): the program loaded, the data memory as DMEM_INIT says, reset applied. -/
def State.powerOn (cfg : Config) (image : List Word) (data : List (WordIndex × Word)) : State :=
  { regs := Vector.replicate 32 0x00000000#32
    pc := cfg.resetPc
    dmem := initData cfg.endian data
    imem := loadImage cfg.endian image
    cfg := cfg }

end Sys2Proof.Machine
end

