-- ==== Sys2Proof/Machine/Modules.lean ====
section
/-! DEFINITION. The four modules of the microarchitecture (70_reset_and_hazards.md R200 to R204): shifter, ALU, program
counter, register bank. Only the cycle-level model (Machine/Pipeline.lean) uses them; statements say that they compute
what the instructions' rules say. Operation codes are enumerations: the source gives no number (D23, log 26). -/

namespace Sys2Proof.Machine

/-! ### Shifter (R200) -/

/-- R200: right where `iDir` is 1, arithmetic where `iArith` is 1 too; left otherwise, always logical. The widths are
those of the generic `N`: data 2^N bits, distance N bits (C8, D22). -/
def shifter {w n : Nat} (iData : BitVec w) (iShamt : BitVec n) (iArith iDir : Bool) : BitVec w :=
  if iDir then (if iArith then iData.sshiftRight iShamt.toNat else iData >>> iShamt.toNat)
  else iData <<< iShamt.toNat

/-- R167: the shifter as the source asks for it to be built, from the right shift alone: a left shift reverses the bits
before and after. -/
def shifterFromRight {w n : Nat} (iData : BitVec w) (iShamt : BitVec n) (iArith iDir : Bool) : BitVec w :=
  if iDir then (if iArith then iData.sshiftRight iShamt.toNat else iData >>> iShamt.toNat)
  else (iData.reverse >>> iShamt.toNat).reverse

/-! ### ALU (R201, R202) -/

/-- The seven ALU operation codes of TABLEAU.1 (R202). -/
inductive AluOp where
  /-- `ALUOP_ADD` -/
  | add
  /-- `ALUOP_SLT` -/
  | slt
  /-- `ALUOP_SL` -/
  | sl
  /-- `ALUOP_SR` -/
  | sr
  /-- `ALUOP_XOR` -/
  | xor
  /-- `ALUOP_OR` -/
  | or
  /-- `ALUOP_AND` -/
  | and
deriving DecidableEq, Repr

/-- The two comparisons the input `i_sign` is taken to choose between (R201, D11); no polarity is assumed (N5). -/
inductive AluSign where
  /-- Operands are two's-complement integers. -/
  | signed
  /-- Operands are unsigned integers. -/
  | unsigned
deriving DecidableEq, Repr

/-- The difference with one bit more than the operands, extended as `i_sign` says (C6, R147). -/
def aluDifference (iSign : AluSign) (a b : Word) : BitVec 33 :=
  match iSign with
  | .signed => a.signExtend 33 - b.signExtend 33
  | .unsigned => a.setWidth 33 - b.setWidth 33

/-- R201, R202: the ALU's output `o_res`. The shift distance is `i_shamt` (C7). -/
def alu (iOpcode : AluOp) (iArith : Bool) (iSign : AluSign) (iShamt : Shamt) (iSrc1 iSrc2 : Word) : Word :=
  match iOpcode with
  | .add => if iArith then iSrc1 - iSrc2 else iSrc1 + iSrc2
  | .slt => if (aluDifference iSign iSrc1 iSrc2).msb then 1#32 else 0#32
  | .sl => shifterFromRight iSrc1 iShamt iArith false
  | .sr => shifterFromRight iSrc1 iShamt iArith true
  | .xor => iSrc1 ^^^ iSrc2
  | .or => iSrc1 ||| iSrc2
  | .and => iSrc1 &&& iSrc2

/-! ### Program counter (R203) -/

/-- The four PC operation codes (R203). -/
inductive PcOp where
  /-- N, `pc + 4` -/
  | next
  /-- T, `i_target` -/
  | target
  /-- J, `i_pc[31:28] ++ i_target[25:0] ++ 0b00` -/
  | jump
  /-- B, `i_pc + (i_target << 2)` -/
  | branch
deriving DecidableEq, Repr

/-- R203: the value of the register `pc` after a clock edge. Reset (`i_rstn` at 0) is asynchronous and comes first; with
`i_en` at 0 the value is kept. -/
def pcModule (reset : Word) (iRstn iEn : Bool) (iOpcode : PcOp) (iTarget iPc pc : Word) : Word :=
  if !iRstn then reset
  else if !iEn then pc
  else
    match iOpcode with
    | .next => pc + 4#32
    | .target => iTarget
    | .jump => iPc.extractLsb' 28 4 ++ iTarget.extractLsb' 0 26 ++ 0b00#2
    | .branch => iPc + (iTarget <<< 2)

/-! ### Register bank (R204) -/

/-- The inputs of the register bank but for the clock and `i_rstn` (R204). -/
structure BankIn where
  /-- `i_en`; its effect is not described (N7, log 27). -/
  en : Bool
  /-- `i_we` -/
  we : Bool
  /-- `i_addr_ra` -/
  addrRa : RegNum
  /-- `i_addr_rb` -/
  addrRb : RegNum
  /-- `i_addr_w` -/
  addrW : RegNum
  /-- `i_data_w` -/
  dataW : Word
  /-- No port: which free value the edge takes while `i_en` is 0 (log 27). -/
  draw : Nat
deriving DecidableEq, Repr

/-- The register bank after a clock edge: the contents and the two registered outputs. -/
structure BankOut where
  /-- The 32 locations. -/
  cells : Vector Word 32
  /-- `o_data_ra` -/
  dataRa : Word
  /-- `o_data_rb` -/
  dataRb : Word
deriving DecidableEq, Repr

/-- A read port at the edge: the data being written where the write is to the same address, and else the location
(R204, R211). The bypass holds only where `i_we` is 1 and the address is not 0 (C9, D21). -/
def bankPort (cells : Vector Word 32) (i : BankIn) (a : RegNum) : Word :=
  if i.we && i.addrW == a && a != 0#5 then i.dataW else readBank cells a

/-- R204 at a rising edge of the clock. With `i_en` at 0 the result is a free value (log 27). -/
def bankEdge (cells : Vector Word 32) (i : BankIn) : BankOut :=
  if i.en then
    { cells := if i.we then writeBank cells i.addrW i.dataW else cells
      dataRa := bankPort cells i i.addrRa
      dataRb := bankPort cells i i.addrRb }
  else
    let r := Config.rfIdle i.draw cells i.we i.addrRa i.addrRb i.addrW i.dataW
    { cells := r.1, dataRa := r.2.1, dataRb := r.2.2 }

/-- R204 under reset: every location is 0. -/
def bankReset : Vector Word 32 := Vector.replicate 32 0x00000000#32

end Sys2Proof.Machine
end

