-- ==== Sys2Proof/Machine/Pipeline.lean ====
section
/-! DEFINITION. A cycle-level model of the 4-stage pipeline (70_reset_and_hazards.md R205 to R214), beside the ISA
machine and no part of it: no instruction can observe it (10_state.md R31). It is put together from the modules of
R200 to R204 and follows the source as far as the source goes. What latches hold, which ALU code an instruction drives
and where forwarding sits are the model's (log 19, 28, 36); the signals the source does not describe are free
(`Signals`, log 27, 29). -/

namespace Sys2Proof.Machine

/-- The latch between F and D: what the instruction memory returned for an address (R206). A model fault of the fetch
travels with it and is raised only if the instruction reaches stage E, so that a flushed fetch raises none. -/
structure Fetched where
  /-- The address fetched from. -/
  pc : Word
  /-- The word, or why there is none. -/
  word : Except Fault Word
deriving DecidableEq, Repr

/-- The latch between D and E (R207): the instruction and the two operands read from the register bank. -/
structure Issued where
  /-- The instruction's own address. -/
  pc : Word
  /-- The instruction, or the model fault it raises. -/
  instr : Except Fault Instr
  /-- `x[rs]` as the register bank gave it. -/
  opA : Word
  /-- `x[rt]` as the register bank gave it. -/
  opB : Word
deriving DecidableEq, Repr

/-- The latch between E and U (R209): the register to write, if any, and the value. -/
abbrev Result := Option (RegNum × Word)

/-- The signals of a cycle that the source does not describe: inputs of the model, of which nothing is known (U15, U16). -/
structure Signals where
  /-- Stages F and D hold (R210): the source does not say in which cycles (N11, log 29). -/
  stall : Bool
  /-- `i_en` of the register bank: neither its effect nor how it is driven is described (N7, N11, log 27). -/
  rfEn : Bool
  /-- No signal: which free value the register bank's edge takes in this cycle while its `i_en` is 0 (log 27). -/
  rfDraw : Nat
  /-- `o_imem_en` (N9, log 27). -/
  imemEn : Bool
  /-- `o_dmem_en` (N9, log 27). -/
  dmemEn : Bool
  /-- What `o_dmem_addr` carries while no LW or SW is in stage E (log 37). -/
  idleAddr : BitVec 10
  /-- What `o_dmem_write` carries while no SW is in stage E (log 37). -/
  idleWrite : Word
deriving DecidableEq, Repr

/-- The state of the pipeline. `arch` holds the register bank, the memories, the parameters, and in `pc` the PC module's
register: the address of the next FETCH (C14). -/
structure Pipeline where
  /-- Register bank, fetch register, memories, parameters. -/
  arch : State
  /-- The instruction in stage D. -/
  inD : Option Fetched
  /-- The instruction in stage E. -/
  inE : Option Issued
  /-- The result in stage U. -/
  inU : Result
deriving DecidableEq, Repr

/-- The field `rs` of an instruction; 0 where its format has none. -/
def rsOf : Instr → RegNum
  | .j _ => 0
  | .jal _ => 0
  | .jalr rs _ _ _ => rs
  | .beq rs _ _ => rs
  | .lw rs _ _ => rs
  | .sw rs _ _ => rs
  | .lui rs _ _ => rs
  | .addi rs _ _ => rs
  | .addiu rs _ _ => rs
  | .add rs _ _ _ => rs
  | .sub rs _ _ _ => rs
  | .sll rs _ _ _ => rs
  | .srl rs _ _ _ => rs
  | .sra rs _ _ _ => rs
  | .sllv rs _ _ _ => rs
  | .srlv rs _ _ _ => rs
  | .srav rs _ _ _ => rs
  | .slti rs _ _ => rs
  | .sltiu rs _ _ => rs
  | .slt rs _ _ _ => rs
  | .sltu rs _ _ _ => rs
  | .xori rs _ _ => rs
  | .ori rs _ _ => rs
  | .andi rs _ _ => rs
  | .xor rs _ _ _ => rs
  | .or rs _ _ _ => rs
  | .and rs _ _ _ => rs

/-- The field `rt` of an instruction; 0 where its format has none. -/
def rtOf : Instr → RegNum
  | .j _ => 0
  | .jal _ => 0
  | .jalr _ rt _ _ => rt
  | .beq _ rt _ => rt
  | .lw _ rt _ => rt
  | .sw _ rt _ => rt
  | .lui _ rt _ => rt
  | .addi _ rt _ => rt
  | .addiu _ rt _ => rt
  | .add _ rt _ _ => rt
  | .sub _ rt _ _ => rt
  | .sll _ rt _ _ => rt
  | .srl _ rt _ _ => rt
  | .sra _ rt _ _ => rt
  | .sllv _ rt _ _ => rt
  | .srlv _ rt _ _ => rt
  | .srav _ rt _ _ => rt
  | .slti _ rt _ => rt
  | .sltiu _ rt _ => rt
  | .slt _ rt _ _ => rt
  | .sltu _ rt _ _ => rt
  | .xori _ rt _ => rt
  | .ori _ rt _ => rt
  | .andi _ rt _ => rt
  | .xor _ rt _ _ => rt
  | .or _ rt _ _ => rt
  | .and _ rt _ _ => rt

/-! ### Stage E (R208) -/

/-- What the ALU gives for an instruction whose operands are `a` = `x[rs]` and `b` = `x[rt]`. DESIGN CHOICE (log 28):
the source leaves the codes and the feeding of the inputs to the designer; LUI is a left shift by 16, and for J, JAL,
JALR and BEQ, which take no result from the ALU, it adds. -/
def aluOf (i : Instr) (a b : Word) : Word :=
  match i with
  | .j _ => alu .add false .signed 0 a b
  | .jal _ => alu .add false .signed 0 a b
  | .jalr _ _ _ _ => alu .add false .signed 0 a b
  | .beq _ _ _ => alu .add false .signed 0 a b
  | .lw _ _ imm16 => alu .add false .signed 0 a (sext32 imm16)
  | .sw _ _ imm16 => alu .add false .signed 0 a (sext32 imm16)
  | .lui _ _ imm16 => alu .sl false .signed 16 (zext32 imm16) b
  | .addi _ _ imm16 => alu .add false .signed 0 a (sext32 imm16)
  | .addiu _ _ imm16 => alu .add false .signed 0 a (zext32 imm16)
  | .add _ _ _ _ => alu .add false .signed 0 a b
  | .sub _ _ _ _ => alu .add true .signed 0 a b
  | .sll _ _ _ shamt => alu .sl false .signed shamt b a
  | .srl _ _ _ shamt => alu .sr false .signed shamt b a
  | .sra _ _ _ shamt => alu .sr true .signed shamt b a
  | .sllv _ _ _ _ => alu .sl false .signed (shiftDistance a) b a
  | .srlv _ _ _ _ => alu .sr false .signed (shiftDistance a) b a
  | .srav _ _ _ _ => alu .sr true .signed (shiftDistance a) b a
  | .slti _ _ imm16 => alu .slt true .signed 0 a (sext32 imm16)
  | .sltiu _ _ imm16 => alu .slt true .unsigned 0 a (zext32 imm16)
  | .slt _ _ _ _ => alu .slt true .signed 0 a b
  | .sltu _ _ _ _ => alu .slt true .unsigned 0 a b
  | .xori _ _ imm16 => alu .xor false .signed 0 a (zext32 imm16)
  | .ori _ _ imm16 => alu .or false .signed 0 a (zext32 imm16)
  | .andi _ _ imm16 => alu .and false .signed 0 a (zext32 imm16)
  | .xor _ _ _ _ => alu .xor false .signed 0 a b
  | .or _ _ _ _ => alu .or false .signed 0 a b
  | .and _ _ _ _ => alu .and false .signed 0 a b

/-- The PC operation an instruction asks for and the value it puts on `i_target` (R203): the branch is predicted not
taken and resolved here (R208, R214). -/
def pcControl (i : Instr) (a b : Word) : PcOp × Word :=
  match i with
  | .j imm26 => (.jump, imm26.setWidth 32)
  | .jal imm26 => (.jump, imm26.setWidth 32)
  | .jalr _ _ _ _ => (.target, a)
  | .beq _ _ imm16 => if a = b then (.branch, sext32 imm16) else (.next, 0#32)
  | .lw _ _ _ | .sw _ _ _
  | .lui _ _ _ | .addi _ _ _ | .addiu _ _ _ | .slti _ _ _ | .sltiu _ _ _ | .xori _ _ _ | .ori _ _ _ | .andi _ _ _
  | .add _ _ _ _ | .sub _ _ _ _ | .slt _ _ _ _ | .sltu _ _ _ _ | .xor _ _ _ _ | .or _ _ _ _ | .and _ _ _ _
  | .sll _ _ _ _ | .srl _ _ _ _ | .sra _ _ _ _ | .sllv _ _ _ _ | .srlv _ _ _ _ | .srav _ _ _ _ =>
    (.next, 0#32)

/-- What stage E gives: the data memory after the access, the result for stage U, the PC operation and its target. -/
structure Executed where
  /-- The data memory after the stage's read or write. -/
  dmem : Memory
  /-- The result for stage U. -/
  result : Result
  /-- The PC operation. -/
  pcOp : PcOp
  /-- `i_target` -/
  target : Word
deriving DecidableEq, Repr

/-- Stage E for an instruction at `pc` with the operands `a` and `b` (R208, R209): LW takes its result from the data
memory, JAL and JALR from `pc + 4`, the others from the ALU. -/
def execute (arch : State) (pc : Word) (i : Instr) (a b : Word) : Except Fault Executed :=
  let r := aluOf i a b
  let c := pcControl i a b
  match i with
  | .lw _ rt _ =>
    match arch.memRead r with
    | .ok v => .ok ⟨arch.dmem, some (rt, v), c.1, c.2⟩
    | .error f => .error f
  | .sw _ _ _ =>
    match arch.memWrite r b with
    | .ok t => .ok ⟨t.dmem, none, c.1, c.2⟩
    | .error f => .error f
  | .jal _ => .ok ⟨arch.dmem, some (31#5, linkAddress pc), c.1, c.2⟩
  | .jalr _ _ rd _ => .ok ⟨arch.dmem, some (rd, linkAddress pc), c.1, c.2⟩
  | .j _ | .beq _ _ _ => .ok ⟨arch.dmem, none, c.1, c.2⟩
  | .lui _ _ _ | .addi _ _ _ | .addiu _ _ _ | .slti _ _ _ | .sltiu _ _ _ | .xori _ _ _ | .ori _ _ _ | .andi _ _ _
  | .add _ _ _ _ | .sub _ _ _ _ | .slt _ _ _ _ | .sltu _ _ _ _ | .xor _ _ _ _ | .or _ _ _ _ | .and _ _ _ _
  | .sll _ _ _ _ | .srl _ _ _ _ | .sra _ _ _ _ | .sllv _ _ _ _ | .srlv _ _ _ _ | .srav _ _ _ _ =>
    .ok ⟨arch.dmem, (destination i).map (fun d => (d, r)), c.1, c.2⟩

/-- Forwarding to stage E (R212): the operand of register `r`, replaced by the latched result of the instruction just before
where that is for `r`. Register 0 is never forwarded (R21). DESIGN CHOICE (log 36): R212 names results of stages E and U,
and where the multiplexers sit is not in the source (N8); the model has this one path, from the latch that stage E's result,
a loaded word too, has reached, so that no hazard needs a stall. -/
def forward (u : Result) (r : RegNum) (v : Word) : Word :=
  match u with
  | some (d, w) => if d = r ∧ r ≠ 0#5 then w else v
  | none => v

/-- Stage E of the pipeline: nothing where it is empty (a bubble); the latched fault where the instruction has one. -/
def Pipeline.stageE (p : Pipeline) : Except Fault Executed :=
  match p.inE with
  | none => .ok ⟨p.arch.dmem, none, .next, 0#32⟩
  | some e =>
    match e.instr with
    | .error f => .error f
    | .ok i => execute p.arch e.pc i (forward p.inU (rsOf i) e.opA) (forward p.inU (rtOf i) e.opB)

/-! ### Stages F, D and U, and the clock (R205 to R214) -/

/-- The instruction in stage D, decoded (R207). -/
def Pipeline.decoded (p : Pipeline) (f : Fetched) : Except Fault Instr :=
  match f.word with
  | .error e => .error e
  | .ok w => p.arch.decodeAt f.pc w

/-- The inputs of the register bank in a cycle: stage U writes, stage D reads `rs` and `rt` (R204, R207, R209); `i_en` is a
free signal (U15, log 27). With no instruction in D or no result in U the addresses and data are 0, which the described
bank (`i_en` = 1) makes no use of (DESIGN CHOICE, log 36). -/
def Pipeline.bankIn (rfEn : Bool) (rfDraw : Nat) (p : Pipeline) : BankIn :=
  let fields : RegNum × RegNum :=
    match p.inD with
    | none => (0, 0)
    | some f =>
      match p.decoded f with
      | .ok i => (rsOf i, rtOf i)
      | .error _ => (0, 0)
  { en := rfEn, we := p.inU.isSome, addrRa := fields.1, addrRb := fields.2
    addrW := (p.inU.getD (0, 0)).1, dataW := (p.inU.getD (0, 0)).2, draw := rfDraw }

/-- The value of `i_pc` in stage E: the instruction's own address plus I_PC_OFFSET (R203, D4). -/
def Pipeline.iPc (p : Pipeline) : Word :=
  match p.inE with
  | none => 0#32
  | some e => targetBase p.arch.cfg e.pc

/-- What a cycle leaves where stage E gave `x`. A stall holds stages F and D and sends a bubble to E (R210). A taken transfer
loads the PC at the end of its stage E and removes the two younger instructions (R195, R213); it has precedence over a stall
(log 29). -/
def Pipeline.afterE (c : Signals) (p : Pipeline) (x : Executed) : Pipeline :=
  let taken := x.pcOp != .next
  let bank := bankEdge p.arch.regs (p.bankIn c.rfEn c.rfDraw)
  let pc := pcModule p.arch.cfg.resetPc true (taken || !c.stall) x.pcOp x.target p.iPc p.arch.pc
  let fetched : Fetched := ⟨p.arch.pc, p.arch.fetchWord p.arch.pc⟩
  let issued := p.inD.map (fun f => (⟨f.pc, p.decoded f, bank.dataRa, bank.dataRb⟩ : Issued))
  { arch := ((p.arch.setRegs bank.cells).setDmem x.dmem).setPc pc
    inD := if taken then none else if c.stall then p.inD else some fetched
    inE := if taken || c.stall then none else issued
    inU := x.result }

/-- One clock cycle. A model fault is raised in stage E alone. The memories answer as R44 describes them, whatever their
enables (log 27). -/
def Pipeline.cycle (c : Signals) (p : Pipeline) : Except Fault Pipeline :=
  match p.stageE with
  | .error f => .error f
  | .ok x => .ok (p.afterE c x)

/-- A run of cycles under a schedule of the free signals. -/
def Pipeline.run : List Signals → Pipeline → Except Fault Pipeline
  | [], p => .ok p
  | c :: rest, p =>
    match p.cycle c with
    | .ok q => q.run rest
    | .error f => .error f

/-- The register bank does in this cycle what R204 describes, as far as the pipeline uses it: the contents, and the outputs
where stage D may issue. Always so where `i_en` is 1; where it is 0 the bank's edge is a free value (log 27). -/
def Pipeline.BankServes (c : Signals) (p : Pipeline) : Prop :=
  (bankEdge p.arch.regs (p.bankIn c.rfEn c.rfDraw)).cells = (bankEdge p.arch.regs (p.bankIn true c.rfDraw)).cells ∧
  (c.stall = false →
    (bankEdge p.arch.regs (p.bankIn c.rfEn c.rfDraw)).dataRa = (bankEdge p.arch.regs (p.bankIn true c.rfDraw)).dataRa ∧
    (bankEdge p.arch.regs (p.bankIn c.rfEn c.rfDraw)).dataRb = (bankEdge p.arch.regs (p.bankIn true c.rfDraw)).dataRb)

/-- `BankServes` in every cycle of a run. -/
def Pipeline.Served : List Signals → Pipeline → Prop
  | [], _ => True
  | c :: rest, p => p.BankServes c ∧ ∀ q, p.cycle c = .ok q → q.Served rest

/-- Reset (R190, R203, R204) with the pipeline empty (D19, log 19). -/
def Pipeline.assertReset (p : Pipeline) : Pipeline :=
  { arch := (p.arch.setRegs bankReset).setPc (pcModule p.arch.cfg.resetPc false true .next 0#32 0#32 p.arch.pc)
    inD := none, inE := none, inU := none }

/-- The pipeline with no instruction in flight. -/
def Pipeline.empty (s : State) : Pipeline := { arch := s, inD := none, inE := none, inU := none }

/-! ### The core's ports (R43) -/

/-- The outputs of SOURCE.1 in a cycle. -/
structure Ports where
  /-- `o_imem_en`: a free signal (N9). -/
  imemEn : Bool
  /-- `o_imem_addr`: bits 9:0 of the PC module's output (R43, R206). -/
  imemAddr : BitVec 10
  /-- `o_dmem_en`: a free signal (N9). -/
  dmemEn : Bool
  /-- `o_dmem_we`: a SW is in stage E (R44, R208). -/
  dmemWe : Bool
  /-- `o_dmem_addr`: bits 9:0 of the address while a LW or SW is in stage E (R47, R120), and else a free signal (log 37). -/
  dmemAddr : BitVec 10
  /-- `o_dmem_write`: the value of `rt` while a SW is in stage E (R122), and else a free signal (log 37). -/
  dmemWrite : Word
deriving DecidableEq, Repr

/-- `o_dmem_we`, `o_dmem_addr` and `o_dmem_write` with an instruction in stage E whose operands are `a` and `b`. -/
def dataPorts (c : Signals) (i : Instr) (a b : Word) : Bool × BitVec 10 × Word :=
  match i with
  | .sw _ _ _ => (true, (aluOf i a b).extractLsb' 0 10, b)
  | .lw _ _ _ => (false, (aluOf i a b).extractLsb' 0 10, c.idleWrite)
  | .j _ | .jal _ | .jalr _ _ _ _ | .beq _ _ _
  | .lui _ _ _ | .addi _ _ _ | .addiu _ _ _ | .slti _ _ _ | .sltiu _ _ _ | .xori _ _ _ | .ori _ _ _ | .andi _ _ _
  | .add _ _ _ _ | .sub _ _ _ _ | .slt _ _ _ _ | .sltu _ _ _ _ | .xor _ _ _ _ | .or _ _ _ _ | .and _ _ _ _
  | .sll _ _ _ _ | .srl _ _ _ _ | .sra _ _ _ _ | .sllv _ _ _ _ | .srlv _ _ _ _ | .srav _ _ _ _ =>
    (false, c.idleAddr, c.idleWrite)

/-- The outputs of a cycle. An empty stage E, or one that holds a latched fault, writes nothing; what the data address and
the write data then carry is free (log 37). -/
def Pipeline.ports (c : Signals) (p : Pipeline) : Ports :=
  let d :=
    match p.inE with
    | some ⟨_, .ok i, opA, opB⟩ => dataPorts c i (forward p.inU (rsOf i) opA) (forward p.inU (rtOf i) opB)
    | some ⟨_, .error _, _, _⟩ => (false, c.idleAddr, c.idleWrite)
    | none => (false, c.idleAddr, c.idleWrite)
  ⟨c.imemEn, p.arch.pc.extractLsb' 0 10, c.dmemEn, d.1, d.2.1, d.2.2⟩

/-! ### What the pipeline stands for -/

/-- The address of the oldest instruction that has not passed stage E: the ISA machine's pc (C14, R25). -/
def Pipeline.nextPc (p : Pipeline) : Word :=
  match p.inE with
  | some e => e.pc
  | none =>
    match p.inD with
    | some f => f.pc
    | none => p.arch.pc

/-- The ISA state a pipeline stands for: the result in U written, pc at the oldest instruction that has not passed E. -/
def Pipeline.isaState (p : Pipeline) : State :=
  let s := match p.inU with
    | some (d, v) => p.arch.writeReg d v
    | none => p.arch
  s.setPc p.nextPc

/-- The pipeline holds consecutive instructions of the program, read right: an invariant of `Pipeline.cycle`. -/
def Pipeline.Coherent (p : Pipeline) : Prop :=
  (∀ f, p.inD = some f → f.word = p.arch.fetchWord f.pc ∧ p.arch.pc = f.pc + 4#32) ∧
  (∀ e, p.inE = some e →
    e.instr = p.arch.fetchInstr e.pc ∧
    (∀ i, e.instr = .ok i → e.opA = p.arch.readReg (rsOf i) ∧ e.opB = p.arch.readReg (rtOf i)) ∧
    (match p.inD with
      | some f => f.pc
      | none => p.arch.pc) = e.pc + 4#32)

end Sys2Proof.Machine
end

