-- ==== Sys2Proof/Machine/Run.lean ====
section
/-! DEFINITION. The end of a run (70_reset_and_hazards.md R197, D15). The hardware never stops; when a run is over is the
environment's parameter END_OF_RUN, here the argument `stop` of `runUntil` with `atSelfTransfer` for its default. -/

namespace Sys2Proof.Machine

/-- The default END_OF_RUN (R197, D15): the instruction at pc is a J to pc or a `beq r, r` to pc. -/
def atSelfTransfer (s : State) : Bool :=
  match s.fetchInstr s.pc with
  | .ok (.j imm26) => jumpTarget s.cfg s.pc imm26 == s.pc
  | .ok (.beq rs rt imm16) => rs == rt && branchTarget s.cfg s.pc imm16 == s.pc
  | _ => false

/-- Steps until END_OF_RUN holds: the final state, or how the run stopped; `none` where `fuel` steps do not reach
either. -/
def runUntil (stop : State → Bool) : Nat → State → Option (Host.Outcome State Fault Refusal)
  | 0, s => if stop s then some (.next s) else none
  | fuel + 1, s =>
    if stop s then some (.next s)
    else
      match step s with
      | .next t => runUntil stop fuel t
      | .fault f => some (.fault f)
      | .refused r => some (.refused r)

end Sys2Proof.Machine
end

