-- ==== Sys2Proof/Safety.lean ====
section
/-! DEFINITION. What counts as a safe run, and the terms the statements use: what an instruction changed and left alone,
and the invariants of the state. -/

namespace Sys2Proof.Machine

/-- A state from which the next step raises no model fault: only there do claims about the model say something of the
hardware (60_exceptions.md R172). -/
def Safe (s : State) : Prop := ∃ t, step s = .next t

/-- A run of `n` steps that raises no model fault. -/
def SafeRun (n : Nat) (s : State) : Prop := ∃ t, Host.Core.run Sys2Proof.core n s = .next t

/-- Every byte of the data memory reads in `t` as in `s`. -/
def SameData (s t : State) : Prop := ∀ a, readByte t.dmem a = readByte s.dmem a

/-- Every byte of the instruction memory reads in `t` as in `s`, and the parameters are the same. -/
def SameProgram (s t : State) : Prop := (∀ a, readByte t.imem a = readByte s.imem a) ∧ t.cfg = s.cfg

/-- Every general register reads in `t` as in `s`. -/
def SameRegs (s t : State) : Prop := ∀ r, t.readReg r = s.readReg r

/-- `t` is `s` after an instruction that writes the value `v` to register `d` and sets pc to `p`: register `d` reads `v`
(register 0 reads 0 still, R22), every other register, every byte of both memories and every parameter is unchanged. -/
def RegisterResult (s t : State) (d : RegNum) (v p : Word) : Prop :=
  (∀ r, t.readReg r = if r = 0#5 then 0x00000000#32 else if r = d then v else s.readReg r) ∧
  t.pc = p ∧ SameData s t ∧ SameProgram s t

/-- `t` is `s` after an instruction that only sets pc to `p`. -/
def PcResult (s t : State) (p : Word) : Prop := SameRegs s t ∧ t.pc = p ∧ SameData s t ∧ SameProgram s t

/-- The instruction completes at `s`: it answers a next state that is `s` with `v` written to register `d` and pc moved on
by 4, nothing else changed. -/
def WritesRegister (i : Instr) (s : State) (d : RegNum) (v : Word) : Prop :=
  ∃ t, exec i s = .next t ∧ RegisterResult s t d v (s.pc + 4#32)

/-- The base of a jump or branch target: pc under I_PC_OFFSET = 0, pc + 4 under I_PC_OFFSET = 4 (R100, R110). -/
def transferBase (s : State) : Word :=
  match s.cfg.iPcOffset with
  | .zero => s.pc
  | .four => s.pc + 4#32

/-- A sequence of instructions leads from `s` to `u`, and no SW among them stores to the data word `k`. -/
def RunsWithoutStoreTo (k : WordIndex) : List Instr → State → State → Prop
  | [], s, u => u = s
  | i :: is, s, u =>
    (∀ rs rt imm16, i = .sw rs rt imm16 → wordIndex (effectiveAddress (s.readReg rs) imm16) ≠ k) ∧
    ∃ t, exec i s = .next t ∧ RunsWithoutStoreTo k is t u

/-- The invariant of the ISA state: both memories in canonical form and made of whole words, slot 0 of the register bank
at zero. -/
def Invariant (s : State) : Prop :=
  s.dmem.wf ∧ s.dmem.wholeWords ∧ s.imem.wf ∧ s.imem.wholeWords ∧ s.regs[0] = 0x00000000#32

/-- Two states that hold the same registers, pc, words of memory and parameters, but perhaps another byte order. -/
def SameWords (s t : State) : Prop :=
  SameRegs s t ∧ t.pc = s.pc ∧ t.cfg = { s.cfg with endian := t.cfg.endian } ∧
  (∀ k, readWord t.cfg.endian t.dmem k = readWord s.cfg.endian s.dmem k) ∧
  (∀ k, readWord t.cfg.endian t.imem k = readWord s.cfg.endian s.imem k)

end Sys2Proof.Machine
end

