-- ==== Sys2Proof/Certificates/Slice0/Obligations.lean ====
section
/-! DEFINITION. The statements for the provers. A docstring names the rule of spec/ a statement formalises; where a
clause rests on a decision of the spec (D<n> of 92_eei_decisions.md) or on a choice of the model it says so and names the
log entry (notes/assumptions/<n>.md). -/

section

open Sys2Proof Sys2Proof.Machine

/-! ### Encoding and decoding -/

/-- DECODE AND ENCODE AGREE, for every instruction and both settings of STRICT_NA (R79, R82; the bit positions are the
spec's D1, log 10). -/
def Obligations.DecodeInvertsEncode : Prop :=
  ∀ (strict : Bool) (i : Instr), i.wellFormed strict = true → decode strict (encode i) = .ok i

/-- A word that decodes has no other reading: its instruction encodes to it, every bit kept, and is well formed
(R79, R82). -/
def Obligations.EncodeInvertsDecode : Prop :=
  ∀ (strict : Bool) (w : Word) (i : Instr), decode strict w = .ok i → encode i = w ∧ i.wellFormed strict = true

/-- A word is an instruction exactly where R77 and R78 list its `op`, or its `funct` under `op` = 000000 (R81; STRICT_NA
false, D2). -/
def Obligations.DecodeFailsExactlyOutsideFigure3 : Prop :=
  ∀ w : Word, (∃ i, decode false w = .ok i) ↔
    (w.extractLsb' 26 6).toNat ∈ [2, 3, 4, 8, 9, 10, 11, 12, 13, 14, 15, 35, 43] ∨
      ((w.extractLsb' 26 6).toNat = 0 ∧
        (w.extractLsb' 0 6).toNat ∈ [0, 2, 3, 4, 6, 7, 9, 32, 34, 36, 37, 38, 42, 43])

/-- The decoder gives the instruction of a row of Figure 3 exactly to the words that match the row
(`w and mask = match`, R79); two rows that one word matches are therefore the same row. -/
def Obligations.DecodeSelectsTheMatchingRow : Prop :=
  figure3.length = 27 ∧
  (∀ i : Instr, i.row ∈ figure3) ∧
  (∀ (w : Word) (r : Row), r ∈ figure3 → (w &&& r.mask = r.matchBits ↔ ∃ i, decode false w = .ok i ∧ i.row = r)) ∧
  (∀ (w : Word) (r q : Row), r ∈ figure3 → q ∈ figure3 → w &&& r.mask = r.matchBits → w &&& q.mask = q.matchBits → r = q)

/-- STRICT_NA = true accepts a word exactly where STRICT_NA = false does and the row's strict mask gives the same fixed
bits (R79, R80, R82, D2; log 4). -/
def Obligations.StrictNaAddsTheStrictMask : Prop :=
  ∀ (w : Word) (i : Instr),
    decode true w = .ok i ↔ decode false w = .ok i ∧ w &&& i.row.strictMask = i.row.matchBits

/-- Words of the spec's own vectors and rules decode to the instructions they stand for, one per family. -/
def Obligations.SampleWordsDecode : Prop :=
  decode false 0x08000010#32 = .ok (.j 0x10) ∧
  decode false 0x03E00009#32 = .ok (.jalr 31 0 0 0) ∧
  decode false 0x1160000A#32 = .ok (.beq 11 0 0xA) ∧
  decode false 0x8FA9FFFC#32 = .ok (.lw 29 9 0xFFFC) ∧
  decode false 0xAFA9FFFC#32 = .ok (.sw 29 9 0xFFFC) ∧
  decode false 0x3CF01234#32 = .ok (.lui 7 16 0x1234) ∧
  decode true 0x3CF01234#32 = .error (.nonZeroNa 0x3CF01234#32) ∧
  decode false 0x01095020#32 = .ok (.add 8 9 10 0) ∧
  decode false 0x2E2CFFFF#32 = .ok (.sltiu 17 12 0xFFFF) ∧
  decode false 0x001DE883#32 = .ok (.sra 0 29 29 2) ∧
  decode false 0x00912804#32 = .ok (.sllv 4 17 5 0) ∧
  decode false 0x0000000C#32 = .error (.unknownFunct 0xC#6)

/-! ### The step -/

/-- A STEP RUNS THE DECODED INSTRUCTION: where pc is a multiple of 4, the instruction memory's word at pc[9:2] is loaded
and decodes to a well-formed instruction, step is exec of it at the same state, and nothing else (R27). -/
def Obligations.StepRunsTheDecodedInstruction : Prop :=
  ∀ (s : State) (w : Word) (i : Instr),
    s.pc.extractLsb' 0 2 = 0b00#2 → readWord s.cfg.endian s.imem (s.pc.extractLsb' 2 8) = some w →
    decode s.cfg.strictNa w = .ok i → i.wellFormed s.cfg.strictNa = true → step s = exec i s

/-- The checks before an instruction runs, in the order of R174: MisalignedFetch, UnloadedFetch, IllegalInstruction. The
faults are the spec's decisions D8, D13, D3 (log 13, 8, 11). -/
def Obligations.FetchFaultsInOrder : Prop :=
  ∀ s : State,
    (s.pc.extractLsb' 0 2 ≠ 0b00#2 → step s = .fault (.misalignedFetch s.pc)) ∧
    (s.pc.extractLsb' 0 2 = 0b00#2 → readWord s.cfg.endian s.imem (s.pc.extractLsb' 2 8) = none →
      step s = .fault (.unloadedFetch s.pc)) ∧
    (∀ w, s.pc.extractLsb' 0 2 = 0b00#2 → readWord s.cfg.endian s.imem (s.pc.extractLsb' 2 8) = some w →
      (∀ i, decode s.cfg.strictNa w ≠ .ok i) → step s = .fault (.illegalInstruction s.pc w))

/-- When an instruction stops, and with which fault: only LW and SW do, on MisalignedData or (LW only, checked second)
UninitialisedRead; every other instruction answers a next state in every state, and none refuses (R131, R172, R174; the
faults are the spec's decisions D7, D12, log 5, 7). -/
def Obligations.OnlyDataAccessesStop : Prop :=
  ∀ (i : Instr) (s : State),
    (∃ t, exec i s = .next t) ∨
    (∃ rs rt imm16, (i = .lw rs rt imm16 ∨ i = .sw rs rt imm16) ∧
      (effectiveAddress (s.readReg rs) imm16).extractLsb' 0 2 ≠ 0b00#2 ∧ s.cfg.misalignedData = .fault ∧
      exec i s = .fault (.misalignedData (effectiveAddress (s.readReg rs) imm16))) ∨
    (∃ rs rt imm16, i = .lw rs rt imm16 ∧
      ((effectiveAddress (s.readReg rs) imm16).extractLsb' 0 2 = 0b00#2 ∨ s.cfg.misalignedData = .forceAlign) ∧
      readWord s.cfg.endian s.dmem (wordIndex (effectiveAddress (s.readReg rs) imm16)) = none ∧
      s.cfg.unwrittenData = .fault ∧
      exec i s = .fault (.uninitialisedRead (effectiveAddress (s.readReg rs) imm16)))

/-- A J or a `beq r, r` whose target is its own address changes no state, however long it runs (R197; the end of a run
there is the spec's D15, log 20). -/
def Obligations.SelfTransferRepeatsForever : Prop :=
  ∀ (s : State) (n : Nat), atSelfTransfer s = true →
    step s = .next s ∧ Host.Core.run Sys2Proof.core n s = .next s ∧ runUntil atSelfTransfer n s = some (.next s)

/-! ### Reset and the environment -/

/-- State.reset (R32): every register reads 0, pc is RESET_PC, the parameters have their defaults (R7), neither memory
holds a value. The parameters' values and the empty memories are the spec's decisions D2, D4, D5, D7, D12, D13, and the
byte order is the model's choice (log 2 to 8). -/
def Obligations.ResetStateValues : Prop :=
  (∀ r, State.reset.readReg r = 0x00000000#32) ∧ State.reset.pc = State.reset.cfg.resetPc ∧
  State.reset.cfg = { resetPc := 0x00000000#32, iPcOffset := .zero, strictNa := false, misalignedData := .fault,
                      unwrittenData := .fault, endian := .little } ∧
  (∀ a, readByte State.reset.dmem a = none) ∧ (∀ a, readByte State.reset.imem a = none)

/-- The start of a run under any parameters, program and initial data (R32, R45, R46, R60, R191): the registers are 0, pc
is RESET_PC, word `i` of the image stands at byte address 4·i and a fetch beyond the image raises UnloadedFetch, a data
word holds what DMEM_INIT says. D12, D13, D14 (log 7, 8, 9). -/
def Obligations.PowerOnLoadsTheImage : Prop :=
  ∀ (cfg : Config) (image : List Word) (data : List (WordIndex × Word)), image.length ≤ 256 →
    (∀ r, (State.powerOn cfg image data).readReg r = 0x00000000#32) ∧
    (State.powerOn cfg image data).pc = cfg.resetPc ∧
    (∀ a : Word, (State.powerOn cfg image data).ifetch a =
      match image[(a.extractLsb' 2 8).toNat]? with
      | some w => .ok w
      | none => .error (.unloadedFetch a)) ∧
    (∀ k : WordIndex, readWord cfg.endian (State.powerOn cfg image data).dmem k =
      (data.find? (fun p => p.1 == k)).map Prod.snd)

/-- Reset during a run (R190, R192): registers 0 and pc RESET_PC, both memories and the parameters as they were; doing it
again changes nothing. It lands between two steps (log 30). -/
def Obligations.AssertResetKeepsMemories : Prop :=
  ∀ s : State, (∀ r, s.assertReset.readReg r = 0x00000000#32) ∧ s.assertReset.pc = s.cfg.resetPc ∧
    SameData s s.assertReset ∧ SameProgram s s.assertReset ∧ s.assertReset.assertReset = s.assertReset

/-! ### Invariants and whole-machine rules -/

/-- The invariant holds after reset and at the start of every run: canonical memories of whole words, slot 0 of the
register bank at zero. -/
def Obligations.InvariantAtReset : Prop :=
  Invariant State.reset ∧ ∀ cfg image data, Invariant (State.powerOn cfg image data)

/-- AN INVARIANT THAT EVERY STEP KEEPS: canonical memories of whole words (R49, R52), register 0's slot at zero (R21,
R22). -/
def Obligations.StepKeepsInvariant : Prop :=
  ∀ s t : State, Invariant s → step s = .next t → Invariant t

/-- R58: stores are never seen by instruction fetch, and the program is constant for the whole run. That the parameters are
constant too is the model's choice (log 1). -/
def Obligations.ProgramIsConstant : Prop :=
  (∀ (s t : State) (a v : Word), s.memWrite a v = .ok t → ∀ b, t.fetchInstr b = s.fetchInstr b) ∧
  ∀ (n : Nat) (s t : State), Host.Core.run Sys2Proof.core n s = .next t →
    SameProgram s t ∧ ∀ b, t.fetchInstr b = s.fetchInstr b

/-- The data memory is written by SW alone (R3 (c), R40). -/
def Obligations.OnlyStoresChangeData : Prop :=
  ∀ (i : Instr) (s t : State), exec i s = .next t → (∀ rs rt imm16, i ≠ .sw rs rt imm16) → SameData s t

/-- pc moves on by 4 but for J, JAL, JALR and a taken BEQ (R26; that it wraps is the spec's D24, log 21). -/
def Obligations.OnlyTransfersMovePc : Prop :=
  ∀ (i : Instr) (s t : State), exec i s = .next t →
    (∀ imm26, i ≠ .j imm26) → (∀ imm26, i ≠ .jal imm26) → (∀ rs rt rd shamt, i ≠ .jalr rs rt rd shamt) →
    (∀ rs rt imm16, i = .beq rs rt imm16 → s.readReg rs ≠ s.readReg rt) → t.pc = s.pc + 4#32

/-- The table of R24. Writes: an instruction changes no register but the one its row names. Reads: two states that agree
on pc, parameters, data memory and the registers the row names give the same pc, the same data memory and the same value
of the written register; of x[rs] the shifts by a register read the low 5 bits alone. -/
def Obligations.ReadsAndWritesTable : Prop :=
  (∀ (i : Instr) (s t : State), exec i s = .next t → ∀ r, destination i ≠ some r → t.readReg r = s.readReg r) ∧
  (∀ (i : Instr) (s s' t : State), exec i s = .next t → s'.pc = s.pc → s'.cfg = s.cfg → s'.dmem = s.dmem →
    (∀ r ∈ sources i, s'.readReg r = s.readReg r) →
    ∃ t', exec i s' = .next t' ∧ t'.pc = t.pc ∧ t'.dmem = t.dmem ∧
      ∀ d, destination i = some d → t'.readReg d = t.readReg d) ∧
  (∀ (i : Instr) (rs rt rd : RegNum) (shamt : Shamt) (s s' : State),
    i = .sllv rs rt rd shamt ∨ i = .srlv rs rt rd shamt ∨ i = .srav rs rt rd shamt →
    s'.readReg rt = s.readReg rt → (s'.readReg rs).extractLsb' 0 5 = (s.readReg rs).extractLsb' 0 5 →
    ∃ t t', exec i s = .next t ∧ exec i s' = .next t' ∧ t'.readReg rd = t.readReg rd)

/-- R22: a write to register 0 is discarded, a write to another register is seen there and nowhere else; an instruction
whose destination is register 0 changes no register, and its other effects still happen (the jump of JALR, the memory
read of LW). -/
def Obligations.RegisterZeroDiscardsWrites : Prop :=
  (∀ (s : State) (v : Word), s.writeReg 0#5 v = s) ∧
  (∀ (s : State) (d r : RegNum) (v : Word), d ≠ 0#5 →
    (s.writeReg d v).readReg r = if r = d then v else s.readReg r) ∧
  (∀ (i : Instr) (s t : State), destination i = some 0#5 → exec i s = .next t → SameRegs s t) ∧
  (∀ (s : State) (rs rt : RegNum) (shamt : Shamt), exec (.jalr rs rt 0#5 shamt) s = .next (s.setPc (s.readReg rs))) ∧
  (∀ (s : State) (rs rt : RegNum) (imm16 : Imm16) (f : Fault),
    exec (.lw rs 0#5 imm16) s = .fault f ↔ exec (.lw rs rt imm16) s = .fault f)

/-! ### Memory -/

/-- R49 and R48 together: a data write completes unless MISALIGNED_DATA stops it, replaces all 32 bits of one word,
and a later read of any address with the same bits 9:2 gives the value; every other word, the registers, pc and the
program are unchanged (D7, log 5). -/
def Obligations.WriteThenRead : Prop :=
  ∀ (s : State) (a v : Word), a.extractLsb' 0 2 = 0b00#2 ∨ s.cfg.misalignedData = .forceAlign →
    ∃ t, s.memWrite a v = .ok t ∧
      (∀ b : Word, b.extractLsb' 2 8 = a.extractLsb' 2 8 →
        b.extractLsb' 0 2 = 0b00#2 ∨ s.cfg.misalignedData = .forceAlign → t.memRead b = .ok v) ∧
      (∀ b : Word, b.extractLsb' 2 8 ≠ a.extractLsb' 2 8 → t.memRead b = s.memRead b) ∧
      (∀ c : Nat, c < byteAddress (wordIndex a) ∨ byteAddress (wordIndex a) + 4 ≤ c →
        readByte t.dmem c = readByte s.dmem c) ∧
      SameRegs s t ∧ t.pc = s.pc ∧ SameProgram s t

/-- Addresses that differ by a multiple of 1024 name the same location, for data and for fetch (R47, the spec's D6,
log 12). -/
def Obligations.AddressesAliasModulo1024 : Prop :=
  ∀ (s : State) (a b : Word), b.toNat % 1024 = a.toNat % 1024 →
    (∀ w, s.memRead b = .ok w ↔ s.memRead a = .ok w) ∧
    (∀ v t, s.memWrite b v = .ok t ↔ s.memWrite a v = .ok t) ∧
    (∀ i, s.fetchInstr b = .ok i ↔ s.fetchInstr a = .ok i)

/-- MISALIGNED_DATA = force_align: address bits 1:0 play no part, and no access raises MisalignedData (R50, D7; log 5). -/
def Obligations.ForceAlignIgnoresLowBits : Prop :=
  ∀ (s : State) (a b : Word), s.cfg.misalignedData = .forceAlign → b.toNat / 4 = a.toNat / 4 →
    (∀ w, s.memRead b = .ok w ↔ s.memRead a = .ok w) ∧
    (∀ v, ∃ t, s.memWrite a v = .ok t ∧ s.memWrite b v = .ok t) ∧
    (∀ f, s.memRead a = .error f → f = .uninitialisedRead a)

/-- A LW gives the value of the latest SW in program order to the same word, whatever runs between them (R55; that no
other agent writes is the spec's D18, log 18). -/
def Obligations.LoadReturnsLatestStore : Prop :=
  ∀ (s t u v : State) (rs rt ls lt : RegNum) (imm16 limm : Imm16) (is : List Instr),
    exec (.sw rs rt imm16) s = .next t →
    RunsWithoutStoreTo (wordIndex (effectiveAddress (s.readReg rs) imm16)) is t u →
    wordIndex (effectiveAddress (u.readReg ls) limm) = wordIndex (effectiveAddress (s.readReg rs) imm16) →
    exec (.lw ls lt limm) u = .next v →
    v.readReg lt = if lt = 0#5 then 0x00000000#32 else s.readReg rt

/-- No program can observe the byte order (R51, the spec's D9, log 6): two states that hold the same registers, pc and
words, laid out in perhaps different byte orders, step alike. -/
def Obligations.ByteOrderIsUnobservable : Prop :=
  ∀ s s' : State, SameWords s s' →
    (∀ f, step s = .fault f → step s' = .fault f) ∧
    (∀ t, step s = .next t → ∃ t', step s' = .next t' ∧ SameWords t t')

/-! ### Jumps and the branch

The base of a target is pc or pc + 4 as I_PC_OFFSET says (the spec's D4, log 3): the statements hold for both. -/

/-- R100, R101, J: pc takes the base's bits 31:28, imm26 and two zero bits; nothing else changes. The bit positions
are the spec's D1 (log 10), the base its D4 (log 3). -/
def Obligations.JumpSetsPc : Prop :=
  ∀ (imm26 : Imm26) (s : State),
    encode (.j imm26) = 0x08000000#32 ||| imm26.setWidth 32 ∧
    ∃ t p, exec (.j imm26) s = .next t ∧ PcResult s t p ∧
      p.toNat = (transferBase s).toNat / 2 ^ 28 * 2 ^ 28 + 4 * imm26.toNat

/-- R100, R102, JAL: as J, and register 31 takes pc + 4 (modulo 2^32: D24, log 21). The bit positions are the spec's D1 (log 10),
the base its D4 (log 3). -/
def Obligations.JumpAndLinkSetsPcAndLink : Prop :=
  ∀ (imm26 : Imm26) (s : State),
    encode (.jal imm26) = 0x0C000000#32 ||| imm26.setWidth 32 ∧
    ∃ t p, exec (.jal imm26) s = .next t ∧ RegisterResult s t 31#5 (s.pc + 4#32) p ∧
      p.toNat = (transferBase s).toNat / 2 ^ 28 * 2 ^ 28 + 4 * imm26.toNat

/-- R103, JALR: pc takes all 32 bits of the OLD x[rs] and register rd takes pc + 4, also where rd is rs (the spec's D17,
log 17); a target that is no multiple of 4 makes the NEXT step raise MisalignedFetch (D8, log 13). The bit
positions are the spec's D1 (log 10). -/
def Obligations.JumpAndLinkRegisterUsesOldTarget : Prop :=
  ∀ (rs rt rd : RegNum) (shamt : Shamt) (s : State),
    encode (.jalr rs 0 rd 0) = rs.setWidth 32 <<< 21 ||| rd.setWidth 32 <<< 11 ||| 0x09#32 ∧
    ∃ t, exec (.jalr rs rt rd shamt) s = .next t ∧ RegisterResult s t rd (s.pc + 4#32) (s.readReg rs) ∧
      ((s.readReg rs).extractLsb' 0 2 ≠ 0b00#2 → step t = .fault (.misalignedFetch (s.readReg rs)))

/-- R110, R111, BEQ: where all 32 bits of x[rs] and x[rt] are equal pc takes the base plus four times the signed
immediate, modulo 2^32 (D24, log 21), and else pc + 4; nothing else changes. The bit positions are the spec's D1 (log 10),
the base its D4 (log 3). -/
def Obligations.BranchOnEqualSetsPc : Prop :=
  ∀ (rs rt : RegNum) (imm16 : Imm16) (s : State),
    encode (.beq rs rt imm16) = 0x10000000#32 ||| rs.setWidth 32 <<< 21 ||| rt.setWidth 32 <<< 16 ||| imm16.setWidth 32 ∧
    ∃ t, exec (.beq rs rt imm16) s = .next t ∧
      PcResult s t (if s.readReg rs = s.readReg rt then
        BitVec.ofInt 32 ((transferBase s).toInt + 4 * imm16.toInt) else s.pc + 4#32)

/-! ### Data memory

The faults are the spec's decisions D7 and D12, that the data memory sees address bits 9:2 is its D6 (log 5, 7, 12). -/

/-- R120, R121, LW completes: aligned (or force_align), with the word holding a value (or, where the parameters treat it
as a free draw, R60, whatever value it is), register rt takes the whole word and nothing else changes. The bit positions are
the spec's D1 (log 10), the rest rests on D6, D7, D12, D24 (log 5, 7, 12, 21). -/
def Obligations.LoadWordResult : Prop :=
  ∀ (rs rt : RegNum) (imm16 : Imm16) (s : State) (v : Word),
    encode (.lw rs rt imm16) = 0x8C000000#32 ||| rs.setWidth 32 <<< 21 ||| rt.setWidth 32 <<< 16 ||| imm16.setWidth 32 ∧
    effectiveAddress (s.readReg rs) imm16 = BitVec.ofInt 32 ((s.readReg rs).toInt + imm16.toInt) ∧
    ((effectiveAddress (s.readReg rs) imm16).extractLsb' 0 2 = 0b00#2 ∨ s.cfg.misalignedData = .forceAlign →
      readWord s.cfg.endian s.dmem ((effectiveAddress (s.readReg rs) imm16).extractLsb' 2 8) = some v ∨
        readWord s.cfg.endian s.dmem ((effectiveAddress (s.readReg rs) imm16).extractLsb' 2 8) = none ∧
          s.cfg.unwrittenData = .freeDraw ∧
          v = Config.unwrittenWord ((effectiveAddress (s.readReg rs) imm16).extractLsb' 2 8) →
      WritesRegister (.lw rs rt imm16) s rt v)

/-- R121, R50, R60: where LW stops, MisalignedData before UninitialisedRead (R174). -/
def Obligations.LoadWordStops : Prop :=
  ∀ (rs rt : RegNum) (imm16 : Imm16) (s : State),
    ((effectiveAddress (s.readReg rs) imm16).extractLsb' 0 2 ≠ 0b00#2 → s.cfg.misalignedData = .fault →
      exec (.lw rs rt imm16) s = .fault (.misalignedData (effectiveAddress (s.readReg rs) imm16))) ∧
    ((effectiveAddress (s.readReg rs) imm16).extractLsb' 0 2 = 0b00#2 ∨ s.cfg.misalignedData = .forceAlign →
      readWord s.cfg.endian s.dmem ((effectiveAddress (s.readReg rs) imm16).extractLsb' 2 8) = none →
      s.cfg.unwrittenData = .fault →
      exec (.lw rs rt imm16) s = .fault (.uninitialisedRead (effectiveAddress (s.readReg rs) imm16)))

/-- R120, R122, SW completes: aligned (or force_align), the word at address bits 9:2 takes x[rt], every byte outside its
four is unchanged, and so are the registers and the program; pc moves on by 4. The bit positions are the spec's D1 (log 10), the
rest rests on D6, D7, D24 (log 5, 12, 21). -/
def Obligations.StoreWordResult : Prop :=
  ∀ (rs rt : RegNum) (imm16 : Imm16) (s : State),
    encode (.sw rs rt imm16) = 0xAC000000#32 ||| rs.setWidth 32 <<< 21 ||| rt.setWidth 32 <<< 16 ||| imm16.setWidth 32 ∧
    ((effectiveAddress (s.readReg rs) imm16).extractLsb' 0 2 = 0b00#2 ∨ s.cfg.misalignedData = .forceAlign →
      ∃ t, exec (.sw rs rt imm16) s = .next t ∧ SameRegs s t ∧ t.pc = s.pc + 4#32 ∧ SameProgram s t ∧
        readWord t.cfg.endian t.dmem (wordIndex (effectiveAddress (s.readReg rs) imm16)) = some (s.readReg rt) ∧
        ∀ b : Nat, b < byteAddress (wordIndex (effectiveAddress (s.readReg rs) imm16)) ∨
            byteAddress (wordIndex (effectiveAddress (s.readReg rs) imm16)) + 4 ≤ b →
          readByte t.dmem b = readByte s.dmem b)

/-- R122, R50: where SW stops. -/
def Obligations.StoreWordStops : Prop :=
  ∀ (rs rt : RegNum) (imm16 : Imm16) (s : State),
    (effectiveAddress (s.readReg rs) imm16).extractLsb' 0 2 ≠ 0b00#2 → s.cfg.misalignedData = .fault →
    exec (.sw rs rt imm16) s = .fault (.misalignedData (effectiveAddress (s.readReg rs) imm16))

/-! ### Arithmetic and logic -/

/-- R132, LUI: register rt takes the immediate in its high half and zeros in its low half, whatever the field rs
holds. The bit positions are the spec's D1 (log 10), the assembler line is presumed (log 23). -/
def Obligations.LoadUpperImmediateResult : Prop :=
  ∀ (rs rt : RegNum) (imm16 : Imm16) (cfg : Config) (pc : Word) (s : State),
    encode (.lui 0 rt imm16) = 0x3C000000#32 ||| rt.setWidth 32 <<< 16 ||| imm16.setWidth 32 ∧
    assemble cfg pc (.lui rt imm16) = [.lui 0 rt imm16] ∧
    ∃ v, WritesRegister (.lui rs rt imm16) s rt v ∧ v.toNat = imm16.toNat * 2 ^ 16

/-- R133 and R134, ADDI and ADDIU: the sum modulo 2^32 with the sign-extended and the ZERO-extended immediate; no
overflow is detected (R131). The wrap is the spec's D10, the zero-extension its D25, the bit positions
its D1 (log 14, 22, 10). -/
def Obligations.AddImmediateResults : Prop :=
  ∀ (rs rt : RegNum) (imm16 : Imm16) (s : State),
    encode (.addi rs rt imm16) =
      0x20000000#32 ||| rs.setWidth 32 <<< 21 ||| rt.setWidth 32 <<< 16 ||| imm16.setWidth 32 ∧
    encode (.addiu rs rt imm16) =
      0x24000000#32 ||| rs.setWidth 32 <<< 21 ||| rt.setWidth 32 <<< 16 ||| imm16.setWidth 32 ∧
    WritesRegister (.addi rs rt imm16) s rt (BitVec.ofInt 32 ((s.readReg rs).toInt + imm16.toInt)) ∧
    WritesRegister (.addiu rs rt imm16) s rt (BitVec.ofNat 32 ((s.readReg rs).toNat + imm16.toNat))

/-- R135 and R136, ADD and SUB: the sum and the difference modulo 2^32, whatever the field shamt holds; the same bits
whether the operands are read as signed or unsigned, and no overflow is detected (R131; the wrap is the spec's D10,
the bit positions its D1, log 14, 10). -/
def Obligations.AddSubResults : Prop :=
  ∀ (rs rt rd : RegNum) (shamt : Shamt) (s : State),
    encode (.add rs rt rd 0) = rs.setWidth 32 <<< 21 ||| rt.setWidth 32 <<< 16 ||| rd.setWidth 32 <<< 11 ||| 0x20#32 ∧
    encode (.sub rs rt rd 0) = rs.setWidth 32 <<< 21 ||| rt.setWidth 32 <<< 16 ||| rd.setWidth 32 <<< 11 ||| 0x22#32 ∧
    (∃ v, WritesRegister (.add rs rt rd shamt) s rd v ∧
      v.toNat = ((s.readReg rs).toNat + (s.readReg rt).toNat) % 2 ^ 32 ∧
      v = BitVec.ofInt 32 ((s.readReg rs).toInt + (s.readReg rt).toInt)) ∧
    (∃ v, WritesRegister (.sub rs rt rd shamt) s rd v ∧
      v.toNat = ((s.readReg rs).toNat + 2 ^ 32 - (s.readReg rt).toNat) % 2 ^ 32 ∧
      v = BitVec.ofInt 32 ((s.readReg rs).toInt - (s.readReg rt).toInt))

/-- R137, R138, R139, ANDI, ORI, XORI: bitwise with the ZERO-extended immediate. The bit positions are the spec's D1
(log 10), the assembler lines are presumed (log 23). -/
def Obligations.LogicImmediateResults : Prop :=
  ∀ (rs rt : RegNum) (imm16 : Imm16) (cfg : Config) (pc : Word) (s : State),
    encode (.andi rs rt imm16) =
      0x30000000#32 ||| rs.setWidth 32 <<< 21 ||| rt.setWidth 32 <<< 16 ||| imm16.setWidth 32 ∧
    encode (.ori rs rt imm16) =
      0x34000000#32 ||| rs.setWidth 32 <<< 21 ||| rt.setWidth 32 <<< 16 ||| imm16.setWidth 32 ∧
    encode (.xori rs rt imm16) =
      0x38000000#32 ||| rs.setWidth 32 <<< 21 ||| rt.setWidth 32 <<< 16 ||| imm16.setWidth 32 ∧
    assemble cfg pc (.andi rt rs imm16) = [.andi rs rt imm16] ∧
    assemble cfg pc (.ori rt rs imm16) = [.ori rs rt imm16] ∧
    assemble cfg pc (.xori rt rs imm16) = [.xori rs rt imm16] ∧
    (∃ v, WritesRegister (.andi rs rt imm16) s rt v ∧ v.toNat = (s.readReg rs).toNat &&& imm16.toNat) ∧
    (∃ v, WritesRegister (.ori rs rt imm16) s rt v ∧ v.toNat = (s.readReg rs).toNat ||| imm16.toNat) ∧
    (∃ v, WritesRegister (.xori rs rt imm16) s rt v ∧ v.toNat = (s.readReg rs).toNat ^^^ imm16.toNat)

/-- R140, R141, R142, AND, OR, XOR: bit by bit, whatever the field shamt holds; each is what the ALU gives for its code.
The bit positions are the spec's D1 (log 10), the assembler lines are presumed (log 23). -/
def Obligations.LogicRegisterResults : Prop :=
  ∀ (rs rt rd : RegNum) (shamt : Shamt) (cfg : Config) (pc : Word) (s : State),
    encode (.and rs rt rd 0) = rs.setWidth 32 <<< 21 ||| rt.setWidth 32 <<< 16 ||| rd.setWidth 32 <<< 11 ||| 0x24#32 ∧
    encode (.or rs rt rd 0) = rs.setWidth 32 <<< 21 ||| rt.setWidth 32 <<< 16 ||| rd.setWidth 32 <<< 11 ||| 0x25#32 ∧
    encode (.xor rs rt rd 0) = rs.setWidth 32 <<< 21 ||| rt.setWidth 32 <<< 16 ||| rd.setWidth 32 <<< 11 ||| 0x26#32 ∧
    assemble cfg pc (.and rd rs rt) = [.and rs rt rd 0] ∧
    assemble cfg pc (.or rd rs rt) = [.or rs rt rd 0] ∧
    assemble cfg pc (.xor rd rs rt) = [.xor rs rt rd 0] ∧
    (∃ v, WritesRegister (.and rs rt rd shamt) s rd v ∧
      (∀ arith sign dist, alu .and arith sign dist (s.readReg rs) (s.readReg rt) = v) ∧
      ∀ n < 32, v.getLsbD n = ((s.readReg rs).getLsbD n && (s.readReg rt).getLsbD n)) ∧
    (∃ v, WritesRegister (.or rs rt rd shamt) s rd v ∧
      (∀ arith sign dist, alu .or arith sign dist (s.readReg rs) (s.readReg rt) = v) ∧
      ∀ n < 32, v.getLsbD n = ((s.readReg rs).getLsbD n || (s.readReg rt).getLsbD n)) ∧
    (∃ v, WritesRegister (.xor rs rt rd shamt) s rd v ∧
      (∀ arith sign dist, alu .xor arith sign dist (s.readReg rs) (s.readReg rt) = v) ∧
      ∀ n < 32, v.getLsbD n = ((s.readReg rs).getLsbD n ^^ (s.readReg rt).getLsbD n))

/-- R143 and R144, SLTI and SLTIU: 1 or 0 as the exact comparison of the integers says, signed with the sign-extended and
unsigned with the ZERO-extended immediate (R147; the spec's D11 and D25, log 15, 22; the bit positions
its D1, log 10). -/
def Obligations.SetLessImmediateResults : Prop :=
  ∀ (rs rt : RegNum) (imm16 : Imm16) (s : State),
    encode (.slti rs rt imm16) =
      0x28000000#32 ||| rs.setWidth 32 <<< 21 ||| rt.setWidth 32 <<< 16 ||| imm16.setWidth 32 ∧
    encode (.sltiu rs rt imm16) =
      0x2C000000#32 ||| rs.setWidth 32 <<< 21 ||| rt.setWidth 32 <<< 16 ||| imm16.setWidth 32 ∧
    WritesRegister (.slti rs rt imm16) s rt (if (s.readReg rs).toInt < imm16.toInt then 1#32 else 0#32) ∧
    WritesRegister (.sltiu rs rt imm16) s rt (if (s.readReg rs).toNat < imm16.toNat then 1#32 else 0#32)

/-- R145 and R146, SLT and SLTU: 1 or 0 as the exact comparison of the signed and of the unsigned integers says, whatever
the field shamt holds (R147; the spec's D11, log 15; the bit positions its D1, log 10). -/
def Obligations.SetLessResults : Prop :=
  ∀ (rs rt rd : RegNum) (shamt : Shamt) (s : State),
    encode (.slt rs rt rd 0) = rs.setWidth 32 <<< 21 ||| rt.setWidth 32 <<< 16 ||| rd.setWidth 32 <<< 11 ||| 0x2A#32 ∧
    encode (.sltu rs rt rd 0) = rs.setWidth 32 <<< 21 ||| rt.setWidth 32 <<< 16 ||| rd.setWidth 32 <<< 11 ||| 0x2B#32 ∧
    WritesRegister (.slt rs rt rd shamt) s rd (if (s.readReg rs).toInt < (s.readReg rt).toInt then 1#32 else 0#32) ∧
    WritesRegister (.sltu rs rt rd shamt) s rd (if (s.readReg rs).toNat < (s.readReg rt).toNat then 1#32 else 0#32)

/-! ### Shifts -/

/-- R161, R162, R163, SLL, SRL, SRA: multiplication by 2^shamt modulo 2^32, unsigned division by 2^shamt rounded down,
signed division by 2^shamt rounded toward minus infinity (each vacated bit a copy of bit 31), whatever the field rs
holds. The bit positions are the spec's D1 (log 10), the assembler lines are presumed (log 23). -/
def Obligations.ShiftByShamtResults : Prop :=
  ∀ (rs rt rd : RegNum) (shamt : Shamt) (cfg : Config) (pc : Word) (s : State),
    encode (.sll 0 rt rd shamt) = rt.setWidth 32 <<< 16 ||| rd.setWidth 32 <<< 11 ||| shamt.setWidth 32 <<< 6 ∧
    encode (.srl 0 rt rd shamt) =
      rt.setWidth 32 <<< 16 ||| rd.setWidth 32 <<< 11 ||| shamt.setWidth 32 <<< 6 ||| 0x02#32 ∧
    encode (.sra 0 rt rd shamt) =
      rt.setWidth 32 <<< 16 ||| rd.setWidth 32 <<< 11 ||| shamt.setWidth 32 <<< 6 ||| 0x03#32 ∧
    assemble cfg pc (.sll rd rt shamt) = [.sll 0 rt rd shamt] ∧
    assemble cfg pc (.srl rd rt shamt) = [.srl 0 rt rd shamt] ∧
    assemble cfg pc (.sra rd rt shamt) = [.sra 0 rt rd shamt] ∧
    (∃ v, WritesRegister (.sll rs rt rd shamt) s rd v ∧
      v.toNat = (s.readReg rt).toNat * 2 ^ shamt.toNat % 2 ^ 32) ∧
    (∃ v, WritesRegister (.srl rs rt rd shamt) s rd v ∧ v.toNat = (s.readReg rt).toNat / 2 ^ shamt.toNat) ∧
    (∃ v, WritesRegister (.sra rs rt rd shamt) s rd v ∧ v.toInt = (s.readReg rt).toInt / 2 ^ shamt.toNat ∧
      ∀ n < 32, v.getLsbD n =
        if n + shamt.toNat < 32 then (s.readReg rt).getLsbD (n + shamt.toNat) else (s.readReg rt).getLsbD 31)

/-- R164, R165, R166, SLLV, SRLV, SRAV: as SLL, SRL, SRA with the distance the low five bits of x[rs], its other bits
ignored, whatever the field shamt holds. The bit positions are the spec's D1 (log 10), the assembler lines are presumed
(log 23). -/
def Obligations.ShiftByRegisterResults : Prop :=
  ∀ (rs rt rd : RegNum) (shamt : Shamt) (cfg : Config) (pc : Word) (s : State),
    encode (.sllv rs rt rd 0) =
      rs.setWidth 32 <<< 21 ||| rt.setWidth 32 <<< 16 ||| rd.setWidth 32 <<< 11 ||| 0x04#32 ∧
    encode (.srlv rs rt rd 0) =
      rs.setWidth 32 <<< 21 ||| rt.setWidth 32 <<< 16 ||| rd.setWidth 32 <<< 11 ||| 0x06#32 ∧
    encode (.srav rs rt rd 0) =
      rs.setWidth 32 <<< 21 ||| rt.setWidth 32 <<< 16 ||| rd.setWidth 32 <<< 11 ||| 0x07#32 ∧
    assemble cfg pc (.sllv rd rt rs) = [.sllv rs rt rd 0] ∧
    assemble cfg pc (.srlv rd rt rs) = [.srlv rs rt rd 0] ∧
    assemble cfg pc (.srav rd rt rs) = [.srav rs rt rd 0] ∧
    (∃ v, WritesRegister (.sllv rs rt rd shamt) s rd v ∧
      v.toNat = (s.readReg rt).toNat * 2 ^ ((s.readReg rs).toNat % 32) % 2 ^ 32) ∧
    (∃ v, WritesRegister (.srlv rs rt rd shamt) s rd v ∧
      v.toNat = (s.readReg rt).toNat / 2 ^ ((s.readReg rs).toNat % 32)) ∧
    (∃ v, WritesRegister (.srav rs rt rd shamt) s rd v ∧
      v.toInt = (s.readReg rt).toInt / 2 ^ ((s.readReg rs).toNat % 32) ∧
      ∀ n < 32, v.getLsbD n =
        if n + (s.readReg rs).toNat % 32 < 32 then (s.readReg rt).getLsbD (n + (s.readReg rs).toNat % 32)
        else (s.readReg rt).getLsbD 31)

/-! ### The assembler -/

/-- `li rt, imm` (R86, the spec's D20, log 23): its two instructions leave imm in register rt and the upper half of imm,
shifted up, in register 8 (where rt is not 8), every other register, the data memory and the program unchanged, and
pc + 8. -/
def Obligations.LiLoadsItsConstant : Prop :=
  ∀ (cfg : Config) (pc imm : Word) (rt : RegNum) (s : State), rt ≠ 0#5 →
    ∃ a b t u, assemble cfg pc (.li rt imm) = [a, b] ∧ exec a s = .next t ∧ exec b t = .next u ∧
      u.readReg rt = imm ∧ (rt ≠ 8#5 → (u.readReg 8#5).toNat = imm.toNat / 2 ^ 16 * 2 ^ 16) ∧
      (∀ r, r ≠ rt → r ≠ 8#5 → u.readReg r = s.readReg r) ∧ u.pc = s.pc + 8#32 ∧ SameData s u ∧ SameProgram s u

/-- The fields an assembler stores for a label (R85; under either I_PC_OFFSET, D4, log 3, 23) make the transfer reach it:
J and JAL within the 256 MiB region of the base, BEQ within −131072 to +131068 bytes of it. -/
def Obligations.AssembledTransfersReachTheirLabel : Prop :=
  ∀ (s : State) (label : Word),
    (label.toNat % 4 = 0 → label.toNat / 2 ^ 28 = (transferBase s).toNat / 2 ^ 28 →
      ∃ i l t u, assemble s.cfg s.pc (.j label) = [i] ∧ exec i s = .next t ∧ t.pc = label ∧
        assemble s.cfg s.pc (.jal label) = [l] ∧ exec l s = .next u ∧ u.pc = label) ∧
    (∀ (rs rt : RegNum) (d : Int), s.readReg rs = s.readReg rt → -32768 ≤ d → d ≤ 32767 →
      label = BitVec.ofInt 32 ((transferBase s).toInt + 4 * d) →
      ∃ i t, assemble s.cfg s.pc (.beq rs rt label) = [i] ∧ exec i s = .next t ∧ t.pc = label)

/-! ### The microarchitecture -/

/-- R167: reversing, shifting right and reversing again equals the shift left exactly, so that the shifter built from the
right shift alone is the shifter of R200, at every width. -/
def Obligations.ReversedRightShiftIsLeftShift : Prop :=
  ∀ (w n : Nat) (d : BitVec w) (shamt : BitVec n) (arith dir : Bool),
    (d.reverse >>> shamt.toNat).reverse = d <<< shamt.toNat ∧
    shifterFromRight d shamt arith dir = shifter d shamt arith dir

/-- TABLEAU.1 (R201, R202): what the ALU gives for each operation code. The distance is i_shamt (C7), and that i_sign
chooses between the two exact comparisons is the spec's D11 (log 15, 26). -/
def Obligations.AluTable : Prop :=
  ∀ (sign : AluSign) (arith : Bool) (shamt : Shamt) (a b : Word),
    (alu .add false sign shamt a b).toNat = (a.toNat + b.toNat) % 2 ^ 32 ∧
    (alu .add true sign shamt a b).toNat = (a.toNat + 2 ^ 32 - b.toNat) % 2 ^ 32 ∧
    alu .slt arith .signed shamt a b = (if a.toInt < b.toInt then 1#32 else 0#32) ∧
    alu .slt arith .unsigned shamt a b = (if a.toNat < b.toNat then 1#32 else 0#32) ∧
    (alu .sl arith sign shamt a b).toNat = a.toNat * 2 ^ shamt.toNat % 2 ^ 32 ∧
    (alu .sr false sign shamt a b).toNat = a.toNat / 2 ^ shamt.toNat ∧
    (alu .sr true sign shamt a b).toInt = a.toInt / 2 ^ shamt.toNat ∧
    (∀ n < 32, (alu .xor arith sign shamt a b).getLsbD n = (a.getLsbD n ^^ b.getLsbD n)) ∧
    (∀ n < 32, (alu .or arith sign shamt a b).getLsbD n = (a.getLsbD n || b.getLsbD n)) ∧
    (∀ n < 32, (alu .and arith sign shamt a b).getLsbD n = (a.getLsbD n && b.getLsbD n))

/-- The ALU, driven as the model's stage D drives it (the model's choice, log 28), computes the address of LW and SW and
the result of every other instruction that writes a register but JAL and JALR (R202, R208). -/
def Obligations.AluComputesTheInstructions : Prop :=
  (∀ (rs rt : RegNum) (imm16 : Imm16) (a b : Word),
    aluOf (.lw rs rt imm16) a b = effectiveAddress a imm16 ∧ aluOf (.sw rs rt imm16) a b = effectiveAddress a imm16) ∧
  (∀ (i : Instr) (s t : State) (d : RegNum), exec i s = .next t → destination i = some d → d ≠ 0#5 →
    (∀ imm26, i ≠ .jal imm26) → (∀ rs rt rd shamt, i ≠ .jalr rs rt rd shamt) → (∀ rs rt imm16, i ≠ .lw rs rt imm16) →
    t.readReg d = aluOf i (s.readReg (rsOf i)) (s.readReg (rtOf i)))

/-- The PC module (R203): reset first, then the enable, then the four operations. -/
def Obligations.PcModuleOperations : Prop :=
  ∀ (reset target iPc pc : Word) (en : Bool) (op : PcOp),
    pcModule reset false en op target iPc pc = reset ∧
    pcModule reset true false op target iPc pc = pc ∧
    (pcModule reset true true .next target iPc pc).toNat = (pc.toNat + 4) % 2 ^ 32 ∧
    pcModule reset true true .target target iPc pc = target ∧
    (pcModule reset true true .jump target iPc pc).toNat =
      iPc.toNat / 2 ^ 28 * 2 ^ 28 + 4 * (target.toNat % 2 ^ 26) ∧
    (pcModule reset true true .branch target iPc pc).toNat = (iPc.toNat + 4 * target.toNat) % 2 ^ 32

/-- The register bank (R204, R211), enabled: after an edge both outputs show the NEW contents of their addresses, the
written location holds the data unless it is location 0, every other location is unchanged, and location 0 reads 0; under
reset every location reads 0. That the bypass needs i_we and an address other than 0 is the spec's D21 (log 24), that
i_en = 1 is the case R204 describes is deduced (log 27). -/
def Obligations.RegisterBankWritesThrough : Prop :=
  ∀ (cells : Vector Word 32) (i : BankIn), i.en = true →
    (bankEdge cells i).dataRa = readBank (bankEdge cells i).cells i.addrRa ∧
    (bankEdge cells i).dataRb = readBank (bankEdge cells i).cells i.addrRb ∧
    (∀ r, readBank (bankEdge cells i).cells r =
      if i.we = true ∧ i.addrW = r ∧ r ≠ 0#5 then i.dataW else readBank cells r) ∧
    (∀ r, readBank bankReset r = 0x00000000#32)

/-- After reset the pipeline is empty, coherent, and stands for the ISA machine after its own reset (R190, the spec's D19,
log 19). -/
def Obligations.PipelineResetIsMachineReset : Prop :=
  ∀ p : Pipeline, p.assertReset.Coherent ∧ p.assertReset.isaState = p.arch.assertReset ∧
    p.assertReset = Pipeline.empty p.arch.assertReset

/-- THE PIPELINE IMPLEMENTS THE STEP (R193, R205 to R214), whatever the free signals: in a cycle in which the register bank
does what R204 describes (always, where its `i_en` is 1) the pipeline stays coherent and either executes nothing, leaving
the ISA state as it was, or executes one instruction as the ISA step does; a model fault of a cycle is the ISA step's. The
latches, the free stalls and enable and the forwarding path are the model's choice (log 19, 27, 29, 36). -/
def Obligations.PipelineCycleImplementsStep : Prop :=
  ∀ (p : Pipeline) (c : Signals), p.Coherent →
    (c.rfEn = true → p.BankServes c) ∧
    (p.BankServes c → ∀ q, p.cycle c = .ok q → q.Coherent ∧
      (p.inE = none → q.isaState = p.isaState) ∧ (p.inE ≠ none → step p.isaState = .next q.isaState)) ∧
    (∀ f, p.cycle c = .error f → step p.isaState = .fault f)

/-- EVERY RUN OF THE PIPELINE IS A RUN OF THE ISA MACHINE, for every schedule of the free signals under which the register
bank does what R204 describes (R193), as it does where its `i_en` is 1 throughout. From an empty pipeline on `s`, the
pipeline stands at the end for the state some number of ISA steps from `s` gives, no more steps than cycles; a model fault
is the one the ISA run ends in. The latches, the free stalls and enable and the forwarding path are the model's choice
(log 19, 27, 29, 36). -/
def Obligations.PipelineRunIsMachineRun : Prop :=
  ∀ (schedule : List Signals) (s : State),
    ((∀ c ∈ schedule, c.rfEn = true) → (Pipeline.empty s).Served schedule) ∧
    ((Pipeline.empty s).Served schedule →
      (∀ q, (Pipeline.empty s).run schedule = .ok q →
        q.Coherent ∧ ∃ n ≤ schedule.length, Host.Core.run Sys2Proof.core n s = .next q.isaState) ∧
      (∀ f, (Pipeline.empty s).run schedule = .error f →
        ∃ n < schedule.length, ∃ t, Host.Core.run Sys2Proof.core n s = .next t ∧ step t = .fault f))

/-- EVERY RUN OF THE ISA MACHINE IS REACHED BY THE PIPELINE (R193): without a stall and with the register bank's `i_en` at 1,
`n` ISA steps take at most `3·n` cycles from an empty pipeline, and a model fault at their end is raised within three cycles
more. The cycle counts rest on the latches, the free stalls and the forwarding path, the model's choice (log 19, 29, 36),
and on the reading of `i_en` (log 27). -/
def Obligations.PipelineReachesEveryMachineState : Prop :=
  ∀ (c : Signals), c.stall = false → c.rfEn = true →
    ∀ (n : Nat) (s t : State), Host.Core.run Sys2Proof.core n s = .next t →
      (∃ k ≤ 3 * n, ∃ q, (Pipeline.empty s).run (List.replicate k c) = .ok q ∧ q.isaState = t) ∧
      (∀ f, step t = .fault f →
        ∃ k ≤ 3 * n + 3, (Pipeline.empty s).run (List.replicate k c) = .error f)

/-- The cost of a control transfer (R195, R213, R214): stage E changes the flow for J, JAL, JALR and a taken BEQ alone;
then the PC module takes the target, the two younger instructions are removed, stage E executes nothing in the next two
cycles and the data memory is not written; without a stall the instruction at the target is in stage E in the third. A BEQ
that is not taken, like any other instruction, costs nothing: without a stall the next instruction follows at once. The
counts rest on the model's latches (log 19), and that a taken transfer takes effect in spite of a stall is its choice too
(log 29). -/
def Obligations.TakenTransferCostsTwoCycles : Prop :=
  (∀ (i : Instr) (a b : Word), (pcControl i a b).1 ≠ .next ↔
    (∃ imm26, i = .j imm26 ∨ i = .jal imm26) ∨ (∃ rs rt rd shamt, i = .jalr rs rt rd shamt) ∨
      (∃ rs rt imm16, i = .beq rs rt imm16 ∧ a = b)) ∧
  (∀ (p q : Pipeline) (x : Executed) (c : Signals), p.stageE = .ok x → p.cycle c = .ok q →
    (x.pcOp ≠ .next →
      q.arch.pc = pcModule p.arch.cfg.resetPc true true x.pcOp x.target p.iPc p.arch.pc ∧ q.inD = none ∧ q.inE = none ∧
      ∀ (c' : Signals), ∃ r, q.cycle c' = .ok r ∧ r.inE = none ∧ r.arch.dmem = q.arch.dmem ∧
        ∀ (c'' : Signals), ∃ u, r.cycle c'' = .ok u ∧ u.arch.dmem = q.arch.dmem ∧
          (c'.stall = false → c''.stall = false → ∃ e, u.inE = some e ∧ e.pc = q.arch.pc)) ∧
    (x.pcOp = .next → c.stall = false → q.inE.isSome = p.inD.isSome ∧ q.inD.isSome = true))

/-- How far the free signals reach (U15, N7, N9): whether a cycle raises a model fault, and which, depends on none of them;
a cycle depends on the stall, on the register bank's `i_en` and on the free value its edge takes, and on no other; under the
same stall these last two change nothing but the bank's contents and the two operands issued. That a cycle depends on no
memory enable is the model's choice, unsafe for the memories (log 27); the free stall is its choice too (log 29). -/
def Obligations.HowFarTheFreeSignalsReach : Prop :=
  ∀ (p : Pipeline) (c c' : Signals),
    (∀ f, p.cycle c = .error f ↔ p.cycle c' = .error f) ∧
    (c'.stall = c.stall → c'.rfEn = c.rfEn → c'.rfDraw = c.rfDraw → p.cycle c' = p.cycle c) ∧
    (c'.stall = c.stall → ∀ q, p.cycle c = .ok q → ∃ q', p.cycle c' = .ok q' ∧
      q' = { q with arch := q.arch.setRegs q'.arch.regs, inE := q'.inE } ∧
      q'.inE.map (fun e => (e.pc, e.instr)) = q.inE.map (fun e => (e.pc, e.instr)))

/-- The core's outputs (R43, R44, R206, R208). FETCH: the instruction address is pc's bits 9:0, and the word latched for
stage D is the word it names. STORE: the write enable is 1 exactly while a SW is in stage E; the data memory after a cycle is
the memory before with, where the write enable is 1, the word the address port names replaced by what the write port
carries, the operand rt. LOAD: while a LW is in stage E the result is the word the address port names, where it holds a value.
The address port carries bits 9:0 of the effective address for both (D6, log 12). What the address port carries without a
LW or SW, and the write port without a SW, is free, and no clause speaks of it (log 37). That the memories answer whatever
the two enables are is the model's choice, unsafe (log 27). -/
def Obligations.PortsDriveTheMemories : Prop :=
  ∀ (p q : Pipeline) (c : Signals), p.cycle c = .ok q →
    (p.ports c).imemAddr.toNat = p.arch.pc.toNat % 1024 ∧
    (c.stall = false → ∀ f, q.inD = some f → f.pc = p.arch.pc ∧
      ∀ w, f.word = .ok w ↔ p.arch.pc.toNat % 4 = 0 ∧
        readWord p.arch.cfg.endian p.arch.imem ((p.ports c).imemAddr.extractLsb' 2 8) = some w) ∧
    ((p.ports c).dmemWe = true ↔ ∃ e rs rt imm16, p.inE = some e ∧ e.instr = .ok (.sw rs rt imm16)) ∧
    (∀ e rs rt imm16, p.inE = some e → e.instr = .ok (.sw rs rt imm16) ∨ e.instr = .ok (.lw rs rt imm16) →
      (p.ports c).dmemAddr.toNat = (effectiveAddress (forward p.inU rs e.opA) imm16).toNat % 1024) ∧
    (∀ e rs rt imm16, p.inE = some e → e.instr = .ok (.sw rs rt imm16) →
      (p.ports c).dmemWrite = forward p.inU rt e.opB) ∧
    (∀ e rs rt imm16, p.inE = some e → e.instr = .ok (.lw rs rt imm16) →
      ∀ w, readWord p.arch.cfg.endian p.arch.dmem ((p.ports c).dmemAddr.extractLsb' 2 8) = some w →
        q.inU = some (rt, w)) ∧
    q.arch.dmem =
      if (p.ports c).dmemWe = true then
        writeWord p.arch.cfg.endian p.arch.dmem ((p.ports c).dmemAddr.extractLsb' 2 8) (p.ports c).dmemWrite
      else p.arch.dmem

end
end

