-- ==== Sys2Proof/Laws/Memory.lean ====
section
/-! SUPPORT. The laws of the memories: reading after a write, the canonical form kept by every operation, whole words
kept by word writes. -/

namespace Sys2Proof.Machine

/-! ### One byte -/

@[simp] theorem readByte_nil (a : Nat) : readByte [] a = none := rfl

theorem readByte_eq_none_of_lt {m : Memory} {a : Nat} (h : ∀ c ∈ m, a < c.1) : readByte m a = none := by
  induction m with
  | nil => rfl
  | cons c m ih =>
    have hc : a < c.1 := h c (by simp)
    simp only [readByte, Nat.ne_of_lt hc, if_false]
    exact ih fun d hd => h d (by simp [hd])

/-- Everything a byte write does to a byte read; no canonical form is needed. -/
theorem readByte_writeByte (m : Memory) (a : Nat) (v : Byte) (b : Nat) :
    readByte (writeByte m a v) b = if b = a then some v else readByte m b := by
  induction m with
  | nil => simp [writeByte, readByte]
  | cons c m ih =>
    obtain ⟨k, x⟩ := c
    rcases Nat.lt_trichotomy a k with h | rfl | h
    · simp [writeByte, readByte, h]
    · by_cases hb : b = a <;> simp [writeByte, readByte, hb]
    · have h1 : ¬ a < k := by omega
      have h2 : ¬ a = k := by omega
      by_cases hb : b = k
      · have : ¬ b = a := by omega
        simp [writeByte, readByte, h1, h2, hb, show ¬ k = a by omega]
      · simp [writeByte, readByte, h1, h2, hb, ih]

theorem mem_writeByte {m : Memory} {a : Nat} {v : Byte} {c : Host.Cell} (h : c ∈ writeByte m a v) :
    c = (a, v) ∨ c ∈ m := by
  induction m with
  | nil => simpa [writeByte] using h
  | cons d m ih =>
    obtain ⟨k, x⟩ := d
    simp only [writeByte] at h
    split at h
    · simpa using h
    · split at h
      · rcases List.mem_cons.1 h with h | h <;> simp [h]
      · rcases List.mem_cons.1 h with h | h
        · simp [h]
        · rcases ih h with h | h <;> simp [h]

/-- A byte write at one of the 1024 addresses keeps the canonical form. -/
theorem wf_writeByte {m : Memory} {a : Nat} (v : Byte) (h : m.wf) (ha : a < 1024) : Memory.wf (writeByte m a v) := by
  refine ⟨?_, fun c hc => ?_⟩
  · obtain ⟨hp, -⟩ := h
    induction m with
    | nil => simp [writeByte]
    | cons d m ih =>
      obtain ⟨k, x⟩ := d
      obtain ⟨hd, hm⟩ := List.pairwise_cons.1 hp
      simp only [writeByte]
      split
      · rename_i hlt
        refine List.pairwise_cons.2 ⟨fun c hc => ?_, hp⟩
        rcases List.mem_cons.1 hc with rfl | hc
        · exact hlt
        · exact Nat.lt_trans hlt (hd c hc)
      · split
        · rename_i heq
          exact List.pairwise_cons.2 ⟨fun c hc => by simpa [heq] using hd c hc, hm⟩
        · rename_i h1 h2
          refine List.pairwise_cons.2 ⟨fun c hc => ?_, ih hm⟩
          rcases mem_writeByte hc with rfl | hc
          · show k < a
            omega
          · exact hd c hc
  · rcases mem_writeByte hc with rfl | hc
    · exact ha
    · exact h.2 c hc

/-- Canonical memories that read alike are equal: the form is canonical. -/
theorem eq_of_readByte_eq {m n : Memory} (hm : m.wf) (hn : n.wf) (h : ∀ a, readByte m a = readByte n a) : m = n := by
  induction m generalizing n with
  | nil =>
    cases n with
    | nil => rfl
    | cons d n => exact absurd (h d.1) (by simp [readByte])
  | cons c m ih =>
    obtain ⟨k, x⟩ := c
    cases n with
    | nil => exact absurd (h k) (by simp [readByte])
    | cons d n =>
      obtain ⟨l, y⟩ := d
      obtain ⟨⟨hm1, hm2⟩, hm3⟩ := And.imp_left List.pairwise_cons.1 hm
      obtain ⟨⟨hn1, hn2⟩, hn3⟩ := And.imp_left List.pairwise_cons.1 hn
      have hkl : k = l := by
        rcases Nat.lt_trichotomy k l with hlt | heq | hlt
        · have := h k
          rw [readByte_eq_none_of_lt (m := (l, y) :: n) (a := k)] at this
          · simp [readByte] at this
          · intro c hc
            rcases List.mem_cons.1 hc with rfl | hc
            · exact hlt
            · exact Nat.lt_trans hlt (hn1 c hc)
        · exact heq
        · have := h l
          rw [readByte_eq_none_of_lt (m := (k, x) :: m) (a := l)] at this
          · simp [readByte] at this
          · intro c hc
            rcases List.mem_cons.1 hc with rfl | hc
            · exact hlt
            · exact Nat.lt_trans hlt (hm1 c hc)
      subst hkl
      have hxy : x = y := by simpa [readByte] using h k
      subst hxy
      congr 1
      refine ih ⟨hm2, fun c hc => hm3 c (by simp [hc])⟩ ⟨hn2, fun c hc => hn3 c (by simp [hc])⟩ fun a => ?_
      by_cases ha : a = k
      · subst ha
        rw [readByte_eq_none_of_lt hm1, readByte_eq_none_of_lt hn1]
      · simpa [readByte, ha] using h a

/-! ### One word -/

theorem byteAddress_lt (k : WordIndex) : byteAddress k + 3 < 1024 := by
  have := k.isLt
  unfold byteAddress
  omega

/-- The four bytes of a word, put together again, are the word, in either byte order. -/
@[simp] theorem wordOfBytes_byteOfWord (e : Endian) (w : Word) :
    wordOfBytes e (byteOfWord e w 0) (byteOfWord e w 1) (byteOfWord e w 2) (byteOfWord e w 3) = w := by
  cases e <;>
  · apply BitVec.eq_of_getLsbD_eq
    intro i hi
    simp only [wordOfBytes, byteOfWord, BitVec.getLsbD_append, BitVec.getLsbD_extractLsb']
    rcases Nat.lt_or_ge i 8 with h0 | h0
    · simp [h0]
    · rcases Nat.lt_or_ge i 16 with h1 | h1
      · simp [show ¬ i < 8 by omega, show i - 8 < 8 by omega, show 8 + (i - 8) = i by omega]
      · rcases Nat.lt_or_ge i 24 with h2 | h2
        · simp [show ¬ i < 8 by omega, show ¬ i - 8 < 8 by omega, show i - 8 - 8 < 8 by omega,
            show 16 + (i - 8 - 8) = i by omega]
        · simp [show ¬ i < 8 by omega, show ¬ i - 8 < 8 by omega, show ¬ i - 8 - 8 < 8 by omega,
            show i - 8 - 8 - 8 < 8 by omega, show 24 + (i - 8 - 8 - 8) = i by omega]

/-- Everything a word write does to a byte read: the word's four bytes are the word's, every other byte is unchanged. -/
theorem readByte_writeWord (e : Endian) (m : Memory) (k : WordIndex) (w : Word) (a : Nat) :
    readByte (writeWord e m k w) a =
      if byteAddress k ≤ a ∧ a < byteAddress k + 4 then some (byteOfWord e w (a - byteAddress k))
      else readByte m a := by
  simp only [writeWord, readByte_writeByte]
  by_cases h3 : a = byteAddress k + 3
  · simp [h3]
  · by_cases h2 : a = byteAddress k + 2
    · simp [h2]
    · by_cases h1 : a = byteAddress k + 1
      · simp [h1]
      · by_cases h0 : a = byteAddress k
        · simp [h0]
        · have : ¬ (byteAddress k ≤ a ∧ a < byteAddress k + 4) := by omega
          simp [h0, h1, h2, h3, this]

/-- Everything a word write does to a word read. -/
theorem readWord_writeWord (e : Endian) (m : Memory) (k l : WordIndex) (w : Word) :
    readWord e (writeWord e m k w) l = if l = k then some w else readWord e m l := by
  by_cases h : l = k
  · subst h
    simp [readWord, readByte_writeWord]
  · have hne : l.toNat ≠ k.toNat := fun heq => h (BitVec.eq_of_toNat_eq heq)
    have key : ∀ j < 4, readByte (writeWord e m k w) (byteAddress l + j) = readByte m (byteAddress l + j) := by
      intro j hj
      rw [readByte_writeWord, if_neg]
      unfold byteAddress
      omega
    simp [readWord, h, key 1, key 2, key 3, show readByte (writeWord e m k w) (byteAddress l) =
      readByte m (byteAddress l) from key 0 (by omega)]

/-- A word write keeps the canonical form. -/
theorem wf_writeWord (e : Endian) {m : Memory} (k : WordIndex) (w : Word) (h : m.wf) :
    Memory.wf (writeWord e m k w) := by
  have := byteAddress_lt k
  unfold writeWord
  exact wf_writeByte _ (wf_writeByte _ (wf_writeByte _ (wf_writeByte _ h (by omega)) (by omega)) (by omega)) (by omega)

/-- A word write leaves the memory made of whole words. -/
theorem wholeWords_writeWord (e : Endian) {m : Memory} (k : WordIndex) (w : Word) (h : m.wholeWords) :
    Memory.wholeWords (writeWord e m k w) := by
  intro l hl j hj
  have hk : byteAddress k = 4 * k.toNat := rfl
  simp only [readByte_writeWord]
  by_cases hlk : l = k.toNat
  · rw [if_pos (by omega), if_pos (by omega)]
    rfl
  · rw [if_neg (by omega), if_neg (by omega)]
    exact h l hl j hj

theorem wf_nil : Memory.wf [] := ⟨List.Pairwise.nil, by simp⟩

theorem wholeWords_nil : Memory.wholeWords [] := fun _ _ _ _ => rfl

/-- Storing a program image keeps the canonical form. -/
theorem wf_loadFrom (e : Endian) (ws : List Word) (k : Nat) {m : Memory} (h : m.wf) :
    Memory.wf (loadFrom e k ws m) := by
  induction ws generalizing k m with
  | nil => exact h
  | cons w ws ih => exact ih (k + 1) (wf_writeWord e _ w h)

/-- Storing the initial data gives the canonical form. -/
theorem wf_initData (e : Endian) (d : List (WordIndex × Word)) : Memory.wf (initData e d) := by
  induction d with
  | nil => exact wf_nil
  | cons p d ih => exact wf_writeWord e p.1 p.2 ih

end Sys2Proof.Machine
end

