-- ==== Sys2Proof/Laws/State.lean ====
section
/-! SUPPORT. What each update of the state leaves in each field, one lemma per field per update. -/

namespace Sys2Proof.Machine

@[simp] theorem State.setPc_pc (s : State) (t : Word) : (s.setPc t).pc = t := rfl
@[simp] theorem State.setPc_regs (s : State) (t : Word) : (s.setPc t).regs = s.regs := rfl
@[simp] theorem State.setPc_dmem (s : State) (t : Word) : (s.setPc t).dmem = s.dmem := rfl
@[simp] theorem State.setPc_imem (s : State) (t : Word) : (s.setPc t).imem = s.imem := rfl
@[simp] theorem State.setPc_cfg (s : State) (t : Word) : (s.setPc t).cfg = s.cfg := rfl

@[simp] theorem State.setRegs_pc (s : State) (r : Vector Word 32) : (s.setRegs r).pc = s.pc := rfl
@[simp] theorem State.setRegs_regs (s : State) (r : Vector Word 32) : (s.setRegs r).regs = r := rfl
@[simp] theorem State.setRegs_dmem (s : State) (r : Vector Word 32) : (s.setRegs r).dmem = s.dmem := rfl
@[simp] theorem State.setRegs_imem (s : State) (r : Vector Word 32) : (s.setRegs r).imem = s.imem := rfl
@[simp] theorem State.setRegs_cfg (s : State) (r : Vector Word 32) : (s.setRegs r).cfg = s.cfg := rfl

@[simp] theorem State.setDmem_pc (s : State) (m : Memory) : (s.setDmem m).pc = s.pc := rfl
@[simp] theorem State.setDmem_regs (s : State) (m : Memory) : (s.setDmem m).regs = s.regs := rfl
@[simp] theorem State.setDmem_dmem (s : State) (m : Memory) : (s.setDmem m).dmem = m := rfl
@[simp] theorem State.setDmem_imem (s : State) (m : Memory) : (s.setDmem m).imem = s.imem := rfl
@[simp] theorem State.setDmem_cfg (s : State) (m : Memory) : (s.setDmem m).cfg = s.cfg := rfl

@[simp] theorem State.setImem_pc (s : State) (m : Memory) : (s.setImem m).pc = s.pc := rfl
@[simp] theorem State.setImem_regs (s : State) (m : Memory) : (s.setImem m).regs = s.regs := rfl
@[simp] theorem State.setImem_dmem (s : State) (m : Memory) : (s.setImem m).dmem = s.dmem := rfl
@[simp] theorem State.setImem_imem (s : State) (m : Memory) : (s.setImem m).imem = m := rfl
@[simp] theorem State.setImem_cfg (s : State) (m : Memory) : (s.setImem m).cfg = s.cfg := rfl

@[simp] theorem State.writeReg_pc (s : State) (d : RegNum) (v : Word) : (s.writeReg d v).pc = s.pc := rfl
@[simp] theorem State.writeReg_regs (s : State) (d : RegNum) (v : Word) :
    (s.writeReg d v).regs = writeBank s.regs d v := rfl
@[simp] theorem State.writeReg_dmem (s : State) (d : RegNum) (v : Word) : (s.writeReg d v).dmem = s.dmem := rfl
@[simp] theorem State.writeReg_imem (s : State) (d : RegNum) (v : Word) : (s.writeReg d v).imem = s.imem := rfl
@[simp] theorem State.writeReg_cfg (s : State) (d : RegNum) (v : Word) : (s.writeReg d v).cfg = s.cfg := rfl

@[simp] theorem State.advance_pc (s : State) : s.advance.pc = s.pc + 4#32 := rfl
@[simp] theorem State.advance_regs (s : State) : s.advance.regs = s.regs := rfl
@[simp] theorem State.advance_dmem (s : State) : s.advance.dmem = s.dmem := rfl
@[simp] theorem State.advance_imem (s : State) : s.advance.imem = s.imem := rfl
@[simp] theorem State.advance_cfg (s : State) : s.advance.cfg = s.cfg := rfl

@[simp] theorem State.readReg_setPc (s : State) (t : Word) (r : RegNum) : (s.setPc t).readReg r = s.readReg r := rfl
@[simp] theorem State.readReg_setDmem (s : State) (m : Memory) (r : RegNum) :
    (s.setDmem m).readReg r = s.readReg r := rfl
@[simp] theorem State.readReg_setImem (s : State) (m : Memory) (r : RegNum) :
    (s.setImem m).readReg r = s.readReg r := rfl
@[simp] theorem State.readReg_advance (s : State) (r : RegNum) : s.advance.readReg r = s.readReg r := rfl

end Sys2Proof.Machine
end

