-- ==== Sys2Proof/Laws/Ops.lean ====
section
/-! SUPPORT. One lemma for each shared operation that says once everything it can do. -/

namespace Sys2Proof.Machine

/-! ### Registers -/

/-- Everything a bank write does to a bank read (R21, R22). -/
theorem readBank_writeBank (b : Vector Word 32) (d r : RegNum) (v : Word) :
    readBank (writeBank b d v) r = if r = 0#5 then 0x00000000#32 else if r = d then v else readBank b r := by
  unfold readBank writeBank
  by_cases hr : r = 0#5
  · simp [hr]
  · by_cases hd : d = 0#5
    · have : ¬ r = d := fun h => hr (h.trans hd)
      simp [hr, hd]
    · by_cases hrd : r = d
      · subst hrd
        simp [hr]
      · have hne : d.toNat ≠ r.toNat := fun h => hrd (BitVec.eq_of_toNat_eq h.symm)
        simp [hr, hd, hrd, Vector.getElem_set_ne _ _ hne]

@[simp] theorem readBank_zero (b : Vector Word 32) : readBank b 0#5 = 0x00000000#32 := rfl

/-- A bank write keeps slot 0. -/
theorem writeBank_slot_zero (b : Vector Word 32) (d : RegNum) (v : Word) : (writeBank b d v)[0] = b[0] := by
  unfold writeBank
  split
  · rfl
  · rename_i h
    have : d.toNat ≠ 0 := fun h0 => h (BitVec.eq_of_toNat_eq h0)
    exact Vector.getElem_set_ne _ _ this

/-- Everything `x[d] <- v` does to `x[r]`. -/
theorem readReg_writeReg (s : State) (d r : RegNum) (v : Word) :
    (s.writeReg d v).readReg r = if r = 0#5 then 0x00000000#32 else if r = d then v else s.readReg r :=
  readBank_writeBank s.regs d r v

@[simp] theorem readReg_zero (s : State) : s.readReg 0#5 = 0x00000000#32 := rfl

/-- Everything the end of a register instruction does. -/
theorem writeBack_next {s t : State} {d : RegNum} {v : Word} (h : s.writeBack d v = .next t) :
    t = (s.writeReg d v).advance := by
  simpa [State.writeBack] using h.symm

/-- Everything an R-type operation does. -/
theorem registerOp_next {s t : State} {f : Word → Word → Word} {rs rt rd : RegNum}
    (h : s.registerOp f rs rt rd = .next t) : t = (s.writeReg rd (f (s.readReg rs) (s.readReg rt))).advance :=
  writeBack_next h

/-- Everything an I-type operation does. -/
theorem immediateOp_next {s t : State} {f : Word → Word → Word} {rs rt : RegNum} {v : Word}
    (h : s.immediateOp f rs rt v = .next t) : t = (s.writeReg rt (f (s.readReg rs) v)).advance :=
  writeBack_next h

/-! ### Accesses -/

/-- What a fetch that gives a word read. -/
theorem ifetch_ok {s : State} {a w : Word} :
    s.ifetch a = .ok w ↔ readWord s.cfg.endian s.imem (wordIndex a) = some w := by
  unfold State.ifetch
  split <;> simp_all

/-- What a fetch that gives no word raises. -/
theorem ifetch_error {s : State} {a : Word} {f : Fault} :
    s.ifetch a = .error f ↔ readWord s.cfg.endian s.imem (wordIndex a) = none ∧ f = .unloadedFetch a := by
  unfold State.ifetch
  cases readWord s.cfg.endian s.imem (wordIndex a) <;> simp [eq_comm]

/-- Everything a data read that gives a word can have read. -/
theorem memRead_ok {s : State} {a w : Word} :
    s.memRead a = .ok w ↔ s.dataMisaligned a = false ∧
      (readWord s.cfg.endian s.dmem (wordIndex a) = some w ∨
        readWord s.cfg.endian s.dmem (wordIndex a) = none ∧ s.cfg.unwrittenData = .freeDraw ∧
          w = Config.unwrittenWord (wordIndex a)) := by
  unfold State.memRead
  cases hm : s.dataMisaligned a <;> cases hr : readWord s.cfg.endian s.dmem (wordIndex a) <;>
    cases hu : s.cfg.unwrittenData <;> simp [eq_comm]

/-- Every way a data read gives no word. -/
theorem memRead_error {s : State} {a : Word} {f : Fault} :
    s.memRead a = .error f ↔ s.dataMisaligned a = true ∧ f = .misalignedData a ∨
      s.dataMisaligned a = false ∧ readWord s.cfg.endian s.dmem (wordIndex a) = none ∧
        s.cfg.unwrittenData = .fault ∧ f = .uninitialisedRead a := by
  unfold State.memRead
  cases hm : s.dataMisaligned a <;> cases hr : readWord s.cfg.endian s.dmem (wordIndex a) <;>
    cases hu : s.cfg.unwrittenData <;> simp [eq_comm]

/-- Everything a data write can do. -/
theorem memWrite_ok {s t : State} {a v : Word} :
    s.memWrite a v = .ok t ↔ s.dataMisaligned a = false ∧
      t = s.setDmem (writeWord s.cfg.endian s.dmem (wordIndex a) v) := by
  unfold State.memWrite
  cases hm : s.dataMisaligned a <;> simp [eq_comm]

/-- The one way a data write stops. -/
theorem memWrite_error {s : State} {a v : Word} {f : Fault} :
    s.memWrite a v = .error f ↔ s.dataMisaligned a = true ∧ f = .misalignedData a := by
  unfold State.memWrite
  cases hm : s.dataMisaligned a <;> simp [eq_comm]

/-! ### Fetching an instruction -/

/-- What a fetch at an address that gives a word read. -/
theorem fetchWord_ok {s : State} {a w : Word} :
    s.fetchWord a = .ok w ↔ misaligned a = false ∧ readWord s.cfg.endian s.imem (wordIndex a) = some w := by
  unfold State.fetchWord
  cases hm : misaligned a <;> simp [ifetch_ok]

/-- The instruction of a word. -/
theorem decodeAt_ok {s : State} {a w : Word} {i : Instr} :
    s.decodeAt a w = .ok i ↔ decode s.cfg.strictNa w = .ok i := by
  unfold State.decodeAt
  cases h : decode s.cfg.strictNa w <;> simp

/-- Everything a fetch of an instruction that gives one has read. -/
theorem fetchInstr_ok {s : State} {a : Word} {i : Instr} :
    s.fetchInstr a = .ok i ↔ ∃ w, misaligned a = false ∧
      readWord s.cfg.endian s.imem (wordIndex a) = some w ∧ decode s.cfg.strictNa w = .ok i := by
  unfold State.fetchInstr
  cases h : s.fetchWord a with
  | error f =>
    simp only [reduceCtorEq, false_iff, not_exists]
    rintro w ⟨h1, h2, -⟩
    simp [fetchWord_ok.2 ⟨h1, h2⟩] at h
  | ok w =>
    obtain ⟨h1, h2⟩ := fetchWord_ok.1 h
    simp [decodeAt_ok, h1, h2]

/-- Where a data access at an address does not raise MisalignedData. -/
theorem dataMisaligned_eq_false {s : State} {a : Word} :
    s.dataMisaligned a = false ↔ a.extractLsb' 0 2 = 0b00#2 ∨ s.cfg.misalignedData = .forceAlign := by
  unfold State.dataMisaligned misaligned
  cases s.cfg.misalignedData <;> simp

/-- Everything an instruction that answers a next state can have done: a register and pc written, or pc alone, or one word
stored. -/
theorem exec_next {i : Instr} {s t : State} (h : exec i s = .next t) :
    (∃ d v p, destination i = some d ∧ t = (s.writeReg d v).setPc p) ∨
    (∃ p, destination i = none ∧ t = s.setPc p) ∨
    (∃ rs rt imm16, i = .sw rs rt imm16 ∧
      s.dataMisaligned (effectiveAddress (s.readReg rs) imm16) = false ∧
      t = (s.setDmem (writeWord s.cfg.endian s.dmem (wordIndex (effectiveAddress (s.readReg rs) imm16))
        (s.readReg rt))).advance) := by
  cases i
  case lw rs rt imm16 =>
    simp only [exec, execLw] at h
    split at h
    · exact .inl ⟨_, _, _, rfl, writeBack_next h⟩
    · simp at h
  case sw rs rt imm16 =>
    simp only [exec, execSw] at h
    split at h
    · rename_i u hu
      obtain ⟨hm, rfl⟩ := memWrite_ok.1 hu
      exact .inr (.inr ⟨_, _, _, rfl, hm, (Host.Outcome.next.inj h).symm⟩)
    · simp at h
  case beq rs rt imm16 =>
    simp only [exec, execBeq] at h
    split at h <;> exact .inr (.inl ⟨_, rfl, (Host.Outcome.next.inj h).symm⟩)
  case j => exact .inr (.inl ⟨_, rfl, (Host.Outcome.next.inj h).symm⟩)
  case jal => exact .inl ⟨_, _, _, rfl, (Host.Outcome.next.inj h).symm⟩
  case jalr => exact .inl ⟨_, _, _, rfl, (Host.Outcome.next.inj h).symm⟩
  all_goals exact .inl ⟨_, _, _, rfl, writeBack_next h⟩

/-- Everything one step does: fetch and decode an instruction and run it, or raise the fetch's fault. -/
theorem step_next {s t : State} : step s = .next t ↔ ∃ i, s.fetchInstr s.pc = .ok i ∧ exec i s = .next t := by
  unfold step
  cases h : s.fetchInstr s.pc <;> simp

/-- A fetch depends on the instruction memory and the parameters alone. -/
theorem fetchInstr_congr {s t : State} (hi : t.imem = s.imem) (hc : t.cfg = s.cfg) (a : Word) :
    t.fetchInstr a = s.fetchInstr a := by
  unfold State.fetchInstr State.fetchWord State.ifetch State.decodeAt
  rw [hi, hc]

/-- The word placed for a fetch is the word the fetch reads. -/
theorem ifetch_placeWord (s : State) (a w : Word) : (s.placeWord a w).ifetch a = .ok w := by
  rw [ifetch_ok]
  simp [State.placeWord, readWord_writeWord]

/-! ### The register bank's module -/

/-- What an edge leaves in the register bank's locations while the bank is enabled (R204). -/
theorem bankEdge_cells {b : Vector Word 32} {i : BankIn} (h : i.en = true) :
    (bankEdge b i).cells = if i.we then writeBank b i.addrW i.dataW else b := by
  simp [bankEdge, h]

end Sys2Proof.Machine
end

