-- ==== Sys2Proof/Laws/PerInstr.lean ====
section
/-! SUPPORT. A family of statements made per instruction: the encoded word carries the fixed bits of its row of Figure 3
(30_encoding.md R79). -/

namespace Sys2Proof.Laws

/-- Masking the encoded word of an instruction gives the fixed bits of its row (R79: `w and mask = match`). -/
def EncodesItsRow.Statement (i : Instr) : Prop := encode i &&& i.row.mask = i.row.matchBits

/-- The mask of an R-type row keeps `op` and `funct`. -/
theorem rType_and_mask (rs rt rd : RegNum) (shamt : Shamt) (funct : BitVec 6) :
    rType rs rt rd shamt funct &&& 0xFC00003F#32 = funct.setWidth 32 := by
  apply BitVec.eq_of_getLsbD_eq
  intro i hi
  simp only [rType, BitVec.getLsbD_and, BitVec.getLsbD_append, BitVec.getLsbD_setWidth]
  interval_cases i <;> simp

/-- The mask of an I-type row keeps `op`. -/
theorem iType_and_mask (op : BitVec 6) (rs rt : RegNum) (imm16 : Imm16) :
    iType op rs rt imm16 &&& 0xFC000000#32 = op.setWidth 32 <<< 26 := by
  apply BitVec.eq_of_getLsbD_eq
  intro i hi
  simp only [iType, BitVec.getLsbD_and, BitVec.getLsbD_append, BitVec.getLsbD_shiftLeft, BitVec.getLsbD_setWidth]
  interval_cases i <;> simp

/-- The mask of a J-type row keeps `op`. -/
theorem jType_and_mask (op : BitVec 6) (imm26 : Imm26) :
    jType op imm26 &&& 0xFC000000#32 = op.setWidth 32 <<< 26 := by
  apply BitVec.eq_of_getLsbD_eq
  intro i hi
  simp only [jType, BitVec.getLsbD_and, BitVec.getLsbD_append, BitVec.getLsbD_shiftLeft, BitVec.getLsbD_setWidth]
  interval_cases i <;> simp

theorem EncodesItsRow.j (imm26 : Imm26) :
    EncodesItsRow.Statement (.j imm26) :=
  jType_and_mask _ _

theorem EncodesItsRow.jal (imm26 : Imm26) :
    EncodesItsRow.Statement (.jal imm26) :=
  jType_and_mask _ _

theorem EncodesItsRow.jalr (rs rt rd : RegNum) (shamt : Shamt) :
    EncodesItsRow.Statement (.jalr rs rt rd shamt) :=
  rType_and_mask _ _ _ _ _

theorem EncodesItsRow.beq (rs rt : RegNum) (imm16 : Imm16) :
    EncodesItsRow.Statement (.beq rs rt imm16) :=
  iType_and_mask _ _ _ _

theorem EncodesItsRow.lw (rs rt : RegNum) (imm16 : Imm16) :
    EncodesItsRow.Statement (.lw rs rt imm16) :=
  iType_and_mask _ _ _ _

theorem EncodesItsRow.sw (rs rt : RegNum) (imm16 : Imm16) :
    EncodesItsRow.Statement (.sw rs rt imm16) :=
  iType_and_mask _ _ _ _

theorem EncodesItsRow.lui (rs rt : RegNum) (imm16 : Imm16) :
    EncodesItsRow.Statement (.lui rs rt imm16) :=
  iType_and_mask _ _ _ _

theorem EncodesItsRow.addi (rs rt : RegNum) (imm16 : Imm16) :
    EncodesItsRow.Statement (.addi rs rt imm16) :=
  iType_and_mask _ _ _ _

theorem EncodesItsRow.addiu (rs rt : RegNum) (imm16 : Imm16) :
    EncodesItsRow.Statement (.addiu rs rt imm16) :=
  iType_and_mask _ _ _ _

theorem EncodesItsRow.add (rs rt rd : RegNum) (shamt : Shamt) :
    EncodesItsRow.Statement (.add rs rt rd shamt) :=
  rType_and_mask _ _ _ _ _

theorem EncodesItsRow.sub (rs rt rd : RegNum) (shamt : Shamt) :
    EncodesItsRow.Statement (.sub rs rt rd shamt) :=
  rType_and_mask _ _ _ _ _

theorem EncodesItsRow.sll (rs rt rd : RegNum) (shamt : Shamt) :
    EncodesItsRow.Statement (.sll rs rt rd shamt) :=
  rType_and_mask _ _ _ _ _

theorem EncodesItsRow.srl (rs rt rd : RegNum) (shamt : Shamt) :
    EncodesItsRow.Statement (.srl rs rt rd shamt) :=
  rType_and_mask _ _ _ _ _

theorem EncodesItsRow.sra (rs rt rd : RegNum) (shamt : Shamt) :
    EncodesItsRow.Statement (.sra rs rt rd shamt) :=
  rType_and_mask _ _ _ _ _

theorem EncodesItsRow.sllv (rs rt rd : RegNum) (shamt : Shamt) :
    EncodesItsRow.Statement (.sllv rs rt rd shamt) :=
  rType_and_mask _ _ _ _ _

theorem EncodesItsRow.srlv (rs rt rd : RegNum) (shamt : Shamt) :
    EncodesItsRow.Statement (.srlv rs rt rd shamt) :=
  rType_and_mask _ _ _ _ _

theorem EncodesItsRow.srav (rs rt rd : RegNum) (shamt : Shamt) :
    EncodesItsRow.Statement (.srav rs rt rd shamt) :=
  rType_and_mask _ _ _ _ _

theorem EncodesItsRow.slti (rs rt : RegNum) (imm16 : Imm16) :
    EncodesItsRow.Statement (.slti rs rt imm16) :=
  iType_and_mask _ _ _ _

theorem EncodesItsRow.sltiu (rs rt : RegNum) (imm16 : Imm16) :
    EncodesItsRow.Statement (.sltiu rs rt imm16) :=
  iType_and_mask _ _ _ _

theorem EncodesItsRow.slt (rs rt rd : RegNum) (shamt : Shamt) :
    EncodesItsRow.Statement (.slt rs rt rd shamt) :=
  rType_and_mask _ _ _ _ _

theorem EncodesItsRow.sltu (rs rt rd : RegNum) (shamt : Shamt) :
    EncodesItsRow.Statement (.sltu rs rt rd shamt) :=
  rType_and_mask _ _ _ _ _

theorem EncodesItsRow.xori (rs rt : RegNum) (imm16 : Imm16) :
    EncodesItsRow.Statement (.xori rs rt imm16) :=
  iType_and_mask _ _ _ _

theorem EncodesItsRow.ori (rs rt : RegNum) (imm16 : Imm16) :
    EncodesItsRow.Statement (.ori rs rt imm16) :=
  iType_and_mask _ _ _ _

theorem EncodesItsRow.andi (rs rt : RegNum) (imm16 : Imm16) :
    EncodesItsRow.Statement (.andi rs rt imm16) :=
  iType_and_mask _ _ _ _

theorem EncodesItsRow.xor (rs rt rd : RegNum) (shamt : Shamt) :
    EncodesItsRow.Statement (.xor rs rt rd shamt) :=
  rType_and_mask _ _ _ _ _

theorem EncodesItsRow.or (rs rt rd : RegNum) (shamt : Shamt) :
    EncodesItsRow.Statement (.or rs rt rd shamt) :=
  rType_and_mask _ _ _ _ _

theorem EncodesItsRow.and (rs rt rd : RegNum) (shamt : Shamt) :
    EncodesItsRow.Statement (.and rs rt rd shamt) :=
  rType_and_mask _ _ _ _ _

end Sys2Proof.Laws
end

