-- ==== Sys2Proof/Laws/Pipeline.lean ====
section
/-! SUPPORT. What a cycle of the pipeline can do, said once, and the fields of the ISA state a pipeline stands for. -/

namespace Sys2Proof.Machine

/-! ### The ISA state -/

@[simp] theorem Pipeline.isaState_pc (p : Pipeline) : p.isaState.pc = p.nextPc := rfl

@[simp] theorem Pipeline.isaState_dmem (p : Pipeline) : p.isaState.dmem = p.arch.dmem := by
  unfold Pipeline.isaState
  cases p.inU <;> rfl

@[simp] theorem Pipeline.isaState_imem (p : Pipeline) : p.isaState.imem = p.arch.imem := by
  unfold Pipeline.isaState
  cases p.inU <;> rfl

@[simp] theorem Pipeline.isaState_cfg (p : Pipeline) : p.isaState.cfg = p.arch.cfg := by
  unfold Pipeline.isaState
  cases p.inU <;> rfl

/-- The enabled register bank leaves the registers of the ISA state: stage U's write is the one still to come. -/
theorem Pipeline.bankEdge_cells_eq (p : Pipeline) (draw : Nat) :
    (bankEdge p.arch.regs (p.bankIn true draw)).cells = p.isaState.regs := by
  unfold Pipeline.isaState
  rw [bankEdge_cells rfl]
  unfold Pipeline.bankIn
  cases p.inU <;> simp

/-- A forwarded operand is the ISA state's register (R212, R193). -/
theorem Pipeline.forward_eq (p : Pipeline) (r : RegNum) :
    forward p.inU r (p.arch.readReg r) = p.isaState.readReg r := by
  unfold Pipeline.isaState forward
  cases p.inU with
  | none => rfl
  | some dv =>
    simp only [State.readReg_setPc, readReg_writeReg]
    by_cases h : r = 0#5
    · subst h
      simp
    · simp [h, eq_comm]

/-! ### A cycle -/

/-- Everything a cycle that goes on does. -/
theorem Pipeline.cycle_ok {p q : Pipeline} {c : Signals} :
    p.cycle c = .ok q ↔ ∃ x, p.stageE = .ok x ∧ q = p.afterE c x := by
  unfold Pipeline.cycle
  cases p.stageE <;> simp [eq_comm]

/-- A cycle stops exactly where stage E does. -/
theorem Pipeline.cycle_error {p : Pipeline} {c : Signals} {f : Fault} :
    p.cycle c = .error f ↔ p.stageE = .error f := by
  unfold Pipeline.cycle
  cases p.stageE <;> simp

/-- A bubble in stage E changes nothing and writes nothing. -/
theorem Pipeline.stageE_bubble {p : Pipeline} (h : p.inE = none) :
    p.stageE = .ok ⟨p.arch.dmem, none, .next, 0#32⟩ := by
  unfold Pipeline.stageE
  rw [h]

end Sys2Proof.Machine
end

