-- ==== Sys2Proof/Laws/Run.lean ====
section
/-! SUPPORT. Unfolding a run of the host's `Host.Core.run` by one step of this machine. -/

namespace Sys2Proof.Machine

/-- The host's run, one step at a time, for any machine. -/
theorem run_succ_of_core (M : Host.Core) (n : Nat) (s : M.State) :
    M.run (n + 1) s =
      match M.step s with
      | .next t => M.run n t
      | .fault f => .fault f
      | .refused r => .refused r := rfl

@[simp] theorem run_zero (s : State) : Host.Core.run Sys2Proof.core 0 s = .next s := rfl

/-- A run whose first step goes on. -/
theorem run_succ_of_next {n : Nat} {s t : State} (h : step s = .next t) :
    Host.Core.run Sys2Proof.core (n + 1) s = Host.Core.run Sys2Proof.core n t := by
  have h1 := run_succ_of_core Sys2Proof.core n s
  have h2 : Sys2Proof.core.step s = .next t := h
  rw [h2] at h1
  exact h1

/-- A run that gets to a state got there by a first step and a shorter run. -/
theorem run_succ_next {n : Nat} {s u : State} :
    Host.Core.run Sys2Proof.core (n + 1) s = .next u ↔
      ∃ t, step s = .next t ∧ Host.Core.run Sys2Proof.core n t = .next u := by
  constructor
  · intro h
    have h1 := run_succ_of_core Sys2Proof.core n s
    rw [h] at h1
    cases hs : step s with
    | next t => exact ⟨t, rfl, by rw [← run_succ_of_next hs]; exact h⟩
    | fault f =>
      have h2 : Sys2Proof.core.step s = .fault f := hs
      rw [h2] at h1
      exact absurd h1 (by simp)
    | refused r =>
      have h2 : Sys2Proof.core.step s = .refused r := hs
      rw [h2] at h1
      exact absurd h1 (by simp)
  · rintro ⟨t, h, hr⟩
    rw [run_succ_of_next h]
    exact hr

/-- A run of some steps and one more. -/
theorem run_then_step {n : Nat} {s t u : State} (h : Host.Core.run Sys2Proof.core n s = .next t)
    (hu : step t = .next u) : Host.Core.run Sys2Proof.core (n + 1) s = .next u := by
  induction n generalizing s with
  | zero =>
    have hst : s = t := Host.Outcome.next.inj h
    subst hst
    rw [run_succ_of_next hu]
    rfl
  | succ n ih =>
    obtain ⟨v, hv, hr⟩ := run_succ_next.1 h
    rw [run_succ_of_next hv]
    exact ih hr

end Sys2Proof.Machine
end

