-- ==== Sys2Proof/Tests/Slice0.lean ====
section
/-! SUPPORT. The session's own tests. Expected values are the spec's: the vectors V-… of 95_test_vectors.md and words
written out from the encodings of 30_encoding.md R79. The last part holds, for every obligation with hypotheses, a
concrete state that meets them. -/

namespace Sys2Proof.Tests

open Sys2Proof.Machine

/-! ### Helpers -/

/-- A state about to run the word `w` at `pc`, with the registers and data words given. -/
def boot (cfg : Config) (pc w : Word) (regs : List (RegNum × Word)) (data : List (WordIndex × Word)) : State :=
  State.withFetchWord
    { State.powerOn cfg [] data with
      pc := pc
      regs := regs.foldl (fun b p => writeBank b p.1 p.2) (Vector.replicate 32 0x00000000#32) } 32 w.toNat

/-- pc, the listed registers and the listed data words after one step. -/
def after (s : State) (regs : List RegNum) (words : List WordIndex) : Option (Word × List Word × List (Option Word)) :=
  match step s with
  | .next t => some (t.pc, regs.map t.readReg, words.map (readWord t.cfg.endian t.dmem))
  | .fault _ => none
  | .refused _ => none

/-- The fault of the next step. -/
def stopOf (s : State) : Option Fault :=
  match step s with
  | .next _ => none
  | .fault f => some f
  | .refused _ => none

/-! ### Well-formedness: each check refuses an ill-formed instruction, STRICT_NA = false lets it stand -/

theorem test_wf_jalr_rt : (Instr.jalr 1 2 3 0).wellFormed true = false := by decide
theorem test_wf_jalr_shamt : (Instr.jalr 1 0 3 4).wellFormed true = false := by decide
theorem test_wf_lui_rs : (Instr.lui 7 16 0x1234).wellFormed true = false := by decide
theorem test_wf_add_shamt : (Instr.add 1 2 3 16).wellFormed true = false := by decide
theorem test_wf_sub_shamt : (Instr.sub 1 2 3 1).wellFormed true = false := by decide
theorem test_wf_sll_rs : (Instr.sll 1 2 3 4).wellFormed true = false := by decide
theorem test_wf_srl_rs : (Instr.srl 1 2 3 4).wellFormed true = false := by decide
theorem test_wf_sra_rs : (Instr.sra 1 2 3 4).wellFormed true = false := by decide
theorem test_wf_sllv_shamt : (Instr.sllv 1 2 3 4).wellFormed true = false := by decide
theorem test_wf_srlv_shamt : (Instr.srlv 1 2 3 4).wellFormed true = false := by decide
theorem test_wf_srav_shamt : (Instr.srav 1 2 3 4).wellFormed true = false := by decide
theorem test_wf_slt_shamt : (Instr.slt 1 2 3 4).wellFormed true = false := by decide
theorem test_wf_sltu_shamt : (Instr.sltu 1 2 3 4).wellFormed true = false := by decide
theorem test_wf_xor_shamt : (Instr.xor 1 2 3 4).wellFormed true = false := by decide
theorem test_wf_or_shamt : (Instr.or 1 2 3 4).wellFormed true = false := by decide
theorem test_wf_and_shamt : (Instr.and 1 2 3 4).wellFormed true = false := by decide
theorem test_wf_not_strict :
    ([.jalr 1 2 3 4, .lui 7 16 0, .add 1 2 3 4, .sll 1 2 3 4] : List Instr).all (·.wellFormed false) = true := by decide

/-! ### Decoding: rs = 9, rt = 10, rd = 11, shamt = 5, imm16 = 0x8001, imm26 = 0x2000001 -/

theorem test_decode_j : decode true 0b00001010000000000000000000000001#32 = .ok (.j 0x2000001) := by decide
theorem test_decode_jal : decode true 0b00001110000000000000000000000001#32 = .ok (.jal 0x2000001) := by decide
theorem test_decode_jalr : decode true 0b00000001001000000101100000001001#32 = .ok (.jalr 9 0 11 0) := by decide
theorem test_decode_beq : decode true 0b00010001001010101000000000000001#32 = .ok (.beq 9 10 0x8001) := by decide
theorem test_decode_lw : decode true 0b10001101001010101000000000000001#32 = .ok (.lw 9 10 0x8001) := by decide
theorem test_decode_sw : decode true 0b10101101001010101000000000000001#32 = .ok (.sw 9 10 0x8001) := by decide
theorem test_decode_lui : decode true 0b00111100000010101000000000000001#32 = .ok (.lui 0 10 0x8001) := by decide
theorem test_decode_addi : decode true 0b00100001001010101000000000000001#32 = .ok (.addi 9 10 0x8001) := by decide
theorem test_decode_addiu : decode true 0b00100101001010101000000000000001#32 = .ok (.addiu 9 10 0x8001) := by decide
theorem test_decode_add : decode true 0b00000001001010100101100000100000#32 = .ok (.add 9 10 11 0) := by decide
theorem test_decode_sub : decode true 0b00000001001010100101100000100010#32 = .ok (.sub 9 10 11 0) := by decide
theorem test_decode_sll : decode true 0b00000000000010100101100101000000#32 = .ok (.sll 0 10 11 5) := by decide
theorem test_decode_srl : decode true 0b00000000000010100101100101000010#32 = .ok (.srl 0 10 11 5) := by decide
theorem test_decode_sra : decode true 0b00000000000010100101100101000011#32 = .ok (.sra 0 10 11 5) := by decide
theorem test_decode_sllv : decode true 0b00000001001010100101100000000100#32 = .ok (.sllv 9 10 11 0) := by decide
theorem test_decode_srlv : decode true 0b00000001001010100101100000000110#32 = .ok (.srlv 9 10 11 0) := by decide
theorem test_decode_srav : decode true 0b00000001001010100101100000000111#32 = .ok (.srav 9 10 11 0) := by decide
theorem test_decode_slti : decode true 0b00101001001010101000000000000001#32 = .ok (.slti 9 10 0x8001) := by decide
theorem test_decode_sltiu : decode true 0b00101101001010101000000000000001#32 = .ok (.sltiu 9 10 0x8001) := by decide
theorem test_decode_slt : decode true 0b00000001001010100101100000101010#32 = .ok (.slt 9 10 11 0) := by decide
theorem test_decode_sltu : decode true 0b00000001001010100101100000101011#32 = .ok (.sltu 9 10 11 0) := by decide
theorem test_decode_xori : decode true 0b00111001001010101000000000000001#32 = .ok (.xori 9 10 0x8001) := by decide
theorem test_decode_ori : decode true 0b00110101001010101000000000000001#32 = .ok (.ori 9 10 0x8001) := by decide
theorem test_decode_andi : decode true 0b00110001001010101000000000000001#32 = .ok (.andi 9 10 0x8001) := by decide
theorem test_decode_xor : decode true 0b00000001001010100101100000100110#32 = .ok (.xor 9 10 11 0) := by decide
theorem test_decode_or : decode true 0b00000001001010100101100000100101#32 = .ok (.or 9 10 11 0) := by decide
theorem test_decode_and : decode true 0b00000001001010100101100000100100#32 = .ok (.and 9 10 11 0) := by decide

/-! ### One step -/

/-- V-J2 -/
theorem test_j_keeps_region :
    after (boot .default 0x10000040#32 0x08000010#32 [] []) [] [] =
      some (0x10000040#32, [], []) := by decide

/-- V-J5 -/
theorem test_j_offset_four :
    after (boot { Config.default with iPcOffset := .four } 0x0FFFFFFC#32 0x08000000#32 [] []) [] [] =
      some (0x10000000#32, [], []) := by decide

/-- V-J7 -/
theorem test_jal_links_past_alias :
    after (boot .default 0x000003FC#32 0x0C000000#32 [(31, 0xAAAAAAAA#32)] []) [31] [] =
      some (0x00000000#32, [0x00000400#32], []) := by decide

/-- V-J8 -/
theorem test_jal_link_wraps :
    after (boot .default 0xFFFFFFFC#32 0x0C000001#32 [(31, 0xAAAAAAAA#32)] []) [31] [] =
      some (0xF0000004#32, [0x00000000#32], []) := by decide

/-- V-J11 -/
theorem test_jalr_old_target :
    after (boot .default 0x00000030#32 0x02008009#32 [(16, 0x00000100#32)] []) [16] [] =
      some (0x00000100#32, [0x00000034#32], []) := by decide

/-- V-J13, V-J14 -/
theorem test_jalr_na_fields :
    after (boot .default 0x00000010#32 0x0105F8C9#32 [(8, 0x00000200#32)] []) [31] [] =
      some (0x00000200#32, [0x00000014#32], []) ∧
    stopOf (boot { Config.default with strictNa := true } 0x00000010#32 0x0105F8C9#32 [(8, 0x00000200#32)] []) =
      some (.illegalInstruction 0x00000010#32 0x0105F8C9#32) := by decide

/-- V-B7 -/
theorem test_beq_offset_four_backward :
    after (boot { Config.default with iPcOffset := .four } 0x00000020#32 0x1000FFFF#32 [] []) [] [] =
      some (0x00000020#32, [], []) := by decide

/-- V-B9 -/
theorem test_beq_compares_all_bits :
    after (boot .default 0x00000100#32 0x11090003#32 [(8, 0x80000000#32), (9, 0x00000000#32)] []) [] [] =
      some (0x00000104#32, [], []) := by decide

/-- V-M6, V-M10 -/
theorem test_lw_address_from_old_base :
    after (boot .default 0x00000000#32 0x8D080004#32 [(8, 0x00000010#32)] [(5, 0xDEADBEEF#32)]) [8] [] =
      some (0x00000004#32, [0xDEADBEEF#32], []) ∧
    after (boot { Config.default with misalignedData := .forceAlign } 0x00000000#32 0x8D090000#32 [(8, 0x00000002#32)] [(0, 0x11223344#32)]) [9] [] =
      some (0x00000004#32, [0x11223344#32], []) := by decide

/-- V-M9, V-M13 -/
theorem test_lw_stops :
    stopOf (boot .default 0x00000000#32 0x8D090000#32 [(8, 0x00000002#32)] [(0, 0x11223344#32)]) =
      some (.misalignedData 0x00000002#32) ∧
    stopOf (boot .default 0x00000000#32 0x8C090020#32 [] []) =
      some (.uninitialisedRead 0x00000020#32) := by decide

/-- V-M8 -/
theorem test_sw_aliases :
    after (boot .default 0x00000000#32 0xAD080000#32 [(8, 0x00000404#32)] []) [] [1] =
      some (0x00000004#32, [], [some 0x00000404#32]) := by decide

/-- V-M11, V-M12 -/
theorem test_sw_misaligned :
    stopOf (boot .default 0x00000000#32 0xAD090000#32 [(8, 0x00000101#32), (9, 0x00000077#32)] []) =
      some (.misalignedData 0x00000101#32) ∧
    after (boot { Config.default with misalignedData := .forceAlign } 0x00000000#32 0xAD090000#32 [(8, 0x00000101#32), (9, 0x00000077#32)] []) [] [64] =
      some (0x00000004#32, [], [some 0x00000077#32]) := by decide

/-- V-A1 -/
theorem test_lui_low_half_zero :
    after (boot .default 0x00000000#32 0x3C108000#32 [(16, 0xFFFFFFFF#32)] []) [16] [] =
      some (0x00000004#32, [0x80000000#32], []) := by decide

/-- V-A2, V-A3 -/
theorem test_lui_na_field :
    after (boot .default 0x00000000#32 0x3CF01234#32 [(7, 0xFFFFFFFF#32)] []) [16] [] =
      some (0x00000004#32, [0x12340000#32], []) ∧
    stopOf (boot { Config.default with strictNa := true } 0x00000000#32 0x3CF01234#32 [] []) =
      some (.illegalInstruction 0x00000000#32 0x3CF01234#32) := by decide

/-- V-A6 -/
theorem test_addi_overflow_wraps :
    after (boot .default 0x00000000#32 0x21080001#32 [(8, 0x7FFFFFFF#32)] []) [8] [] =
      some (0x00000004#32, [0x80000000#32], []) := by decide

/-- V-A8 -/
theorem test_addi_sign_extends :
    after (boot .default 0x00000000#32 0x21098000#32 [(8, 0x80000000#32)] []) [9] [] =
      some (0x00000004#32, [0x7FFF8000#32], []) := by decide

/-- V-A9 -/
theorem test_addiu_zero_extends :
    after (boot .default 0x0000000C#32 0x2413FFFF#32 [] []) [19] [] =
      some (0x00000010#32, [0x0000FFFF#32], []) := by decide

/-- V-A10 -/
theorem test_addiu_wraps :
    after (boot .default 0x00000000#32 0x25080001#32 [(8, 0xFFFFFFFF#32)] []) [8] [] =
      some (0x00000004#32, [0x00000000#32], []) := by decide

/-- V-A12 -/
theorem test_add_carry_lost :
    after (boot .default 0x0000005C#32 0x0210E020#32 [(16, 0x80000000#32), (28, 0x00000055#32)] []) [28] [] =
      some (0x00000060#32, [0x00000000#32], []) := by decide

/-- V-A15, V-A16 -/
theorem test_add_na_shamt :
    after (boot .default 0x00000000#32 0x01095160#32 [(8, 0x00000001#32), (9, 0x00000002#32)] []) [10] [] =
      some (0x00000004#32, [0x00000003#32], []) ∧
    stopOf (boot { Config.default with strictNa := true } 0x00000000#32 0x01095160#32 [(8, 0x00000001#32), (9, 0x00000002#32)] []) =
      some (.illegalInstruction 0x00000000#32 0x01095160#32) := by decide

/-- V-A18 -/
theorem test_sub_overflow_wraps :
    after (boot .default 0x00000000#32 0x01095022#32 [(8, 0x80000000#32), (9, 0x00000001#32)] []) [10] [] =
      some (0x00000004#32, [0x7FFFFFFF#32], []) := by decide

/-- V-A20 -/
theorem test_sub_borrow :
    after (boot .default 0x00000000#32 0x01095022#32 [(8, 0x00000000#32), (9, 0x00000001#32)] []) [10] [] =
      some (0x00000004#32, [0xFFFFFFFF#32], []) := by decide

/-- V-A21 -/
theorem test_andi_zero_extends :
    after (boot .default 0x00000054#32 0x325BF0F0#32 [(18, 0xFFFFFFFF#32)] []) [27] [] =
      some (0x00000058#32, [0x0000F0F0#32], []) := by decide

/-- V-A22 -/
theorem test_ori_zero_extends :
    after (boot .default 0x00000004#32 0x3411FFFF#32 [] []) [17] [] =
      some (0x00000008#32, [0x0000FFFF#32], []) := by decide

/-- V-A24 -/
theorem test_xori_upper_half_kept :
    after (boot .default 0x00000050#32 0x3A5AFFFF#32 [(18, 0xFFFFFFFF#32)] []) [26] [] =
      some (0x00000054#32, [0xFFFF0000#32], []) := by decide

/-- V-A25 -/
theorem test_and_bits :
    after (boot .default 0x00000048#32 0x0250C024#32 [(16, 0x80000000#32), (18, 0xFFFFFFFF#32)] []) [24] [] =
      some (0x0000004C#32, [0x80000000#32], []) := by decide

/-- V-A26 -/
theorem test_or_bits :
    after (boot .default 0x0000004C#32 0x0211C825#32 [(16, 0x80000000#32), (17, 0x0000FFFF#32)] []) [25] [] =
      some (0x00000050#32, [0x8000FFFF#32], []) := by decide

/-- V-A27 -/
theorem test_xor_bits :
    after (boot .default 0x00000044#32 0x02511826#32 [(17, 0x0000FFFF#32), (18, 0xFFFFFFFF#32)] []) [3] [] =
      some (0x00000048#32, [0xFFFF0000#32], []) := by decide

/-- V-A32 -/
theorem test_slti_exact_low :
    after (boot .default 0x00000000#32 0x29090001#32 [(8, 0x80000000#32)] []) [9] [] =
      some (0x00000004#32, [0x00000001#32], []) := by decide

/-- V-A33 -/
theorem test_slti_exact_high :
    after (boot .default 0x00000000#32 0x29098000#32 [(8, 0x7FFFFFFF#32), (9, 0x00000007#32)] []) [9] [] =
      some (0x00000004#32, [0x00000000#32], []) := by decide

/-- V-A35 -/
theorem test_sltiu_zero_extends :
    after (boot .default 0x00000000#32 0x2D09FFFF#32 [(8, 0x00010000#32), (9, 0x00000007#32)] []) [9] [] =
      some (0x00000004#32, [0x00000000#32], []) := by decide

/-- V-A37 -/
theorem test_sltiu_less :
    after (boot .default 0x00000000#32 0x2D098000#32 [(8, 0x00007FFF#32)] []) [9] [] =
      some (0x00000004#32, [0x00000001#32], []) := by decide

/-- V-A42 -/
theorem test_slt_exact :
    after (boot .default 0x00000000#32 0x0109502A#32 [(8, 0x80000000#32), (9, 0x00000001#32)] []) [10] [] =
      some (0x00000004#32, [0x00000001#32], []) := by decide

/-- V-A40 -/
theorem test_slt_signed :
    after (boot .default 0x00000000#32 0x0109502A#32 [(8, 0x7FFFFFFF#32), (9, 0xFFFFFFFF#32), (10, 0x00000007#32)] []) [10] [] =
      some (0x00000004#32, [0x00000000#32], []) := by decide

/-- V-A39 -/
theorem test_sltu_unsigned :
    after (boot .default 0x00000014#32 0x0211482B#32 [(9, 0x00000007#32), (16, 0x80000000#32), (17, 0x0000FFFF#32)] []) [9] [] =
      some (0x00000018#32, [0x00000000#32], []) := by decide

/-- V-A41 -/
theorem test_sltu_less :
    after (boot .default 0x00000000#32 0x0109502B#32 [(8, 0x7FFFFFFF#32), (9, 0xFFFFFFFF#32)] []) [10] [] =
      some (0x00000004#32, [0x00000001#32], []) := by decide

/-- V-S3 -/
theorem test_sll_bits_lost :
    after (boot .default 0x00000000#32 0x00084FC0#32 [(8, 0x00000003#32)] []) [9] [] =
      some (0x00000004#32, [0x80000000#32], []) := by decide

/-- V-S19 -/
theorem test_sll_register_zero :
    after (boot .default 0x00000000#32 0x00000040#32 [] []) [] [] =
      some (0x00000004#32, [], []) := by decide

/-- V-S5 -/
theorem test_srl_zero_fill :
    after (boot .default 0x0000002C#32 0x00107FC2#32 [(16, 0x80000000#32)] []) [15] [] =
      some (0x00000030#32, [0x00000001#32], []) := by decide

/-- V-S6, V-S7 -/
theorem test_srl_na_rs :
    after (boot .default 0x00000000#32 0x00F07902#32 [(7, 0x0000001F#32), (16, 0x80000000#32)] []) [15] [] =
      some (0x00000004#32, [0x08000000#32], []) ∧
    stopOf (boot { Config.default with strictNa := true } 0x00000000#32 0x00F07902#32 [(16, 0x80000000#32)] []) =
      some (.illegalInstruction 0x00000000#32 0x00F07902#32) := by decide

/-- V-S8 -/
theorem test_sra_sign_fill :
    after (boot .default 0x00000028#32 0x001077C3#32 [(16, 0x80000000#32)] []) [14] [] =
      some (0x0000002C#32, [0xFFFFFFFF#32], []) := by decide

/-- V-S10 -/
theorem test_sra_positive :
    after (boot .default 0x00000000#32 0x00084903#32 [(8, 0x40000000#32)] []) [9] [] =
      some (0x00000004#32, [0x04000000#32], []) := by decide

/-- V-S12 -/
theorem test_sllv_distance_mod_32 :
    after (boot .default 0x00000034#32 0x00912804#32 [(4, 0x00000024#32), (17, 0x0000FFFF#32)] []) [5] [] =
      some (0x00000038#32, [0x000FFFF0#32], []) := by decide

/-- V-S17 -/
theorem test_sllv_all_one_register :
    after (boot .default 0x00000000#32 0x01084004#32 [(8, 0x00000003#32)] []) [8] [] =
      some (0x00000004#32, [0x00000018#32], []) := by decide

/-- V-S14 -/
theorem test_srlv_distance_mod_32 :
    after (boot .default 0x0000003C#32 0x00903806#32 [(4, 0x00000024#32), (16, 0x80000000#32)] []) [7] [] =
      some (0x00000040#32, [0x08000000#32], []) := by decide

/-- V-S16 -/
theorem test_srlv_distance_zero :
    after (boot .default 0x00000000#32 0x00884806#32 [(4, 0x00000020#32), (8, 0xABCDEF01#32)] []) [9] [] =
      some (0x00000004#32, [0xABCDEF01#32], []) := by decide

/-- V-S13 -/
theorem test_srav_distance_mod_32 :
    after (boot .default 0x00000038#32 0x00903007#32 [(4, 0x00000024#32), (16, 0x80000000#32)] []) [6] [] =
      some (0x0000003C#32, [0xF8000000#32], []) := by decide

/-- V-S18 -/
theorem test_srav_na_shamt :
    after (boot .default 0x00000000#32 0x00884A47#32 [(4, 0x00000001#32), (8, 0x80000000#32)] []) [9] [] =
      some (0x00000004#32, [0xC0000000#32], []) := by decide

/-- V-X1, V-X2, V-X5, V-X9: words outside Figure 3. -/
theorem test_illegal_words :
    stopOf (boot .default 0x00000000#32 0xFFFFFFFF#32 [] []) =
      some (.illegalInstruction 0x00000000#32 0xFFFFFFFF#32) ∧
    stopOf (boot .default 0x00000000#32 0x0000000C#32 [] []) =
      some (.illegalInstruction 0x00000000#32 0x0000000C#32) ∧
    stopOf (boot .default 0x00000000#32 0x14000003#32 [] []) =
      some (.illegalInstruction 0x00000000#32 0x14000003#32) ∧
    stopOf (boot .default 0x00000000#32 0x00000001#32 [] []) =
      some (.illegalInstruction 0x00000000#32 0x00000001#32) := by decide

/-! ### The bytes of a word, the host's two questions, fetch, loading, the assembler -/

/-- V-A3, V-S7: a non-zero N/A field under STRICT_NA = true, and the same word under false. -/
theorem test_decode_strict_refuses :
    decode true 0x3CF01234#32 = .error (.nonZeroNa 0x3CF01234#32) ∧ decode false 0x3CF01234#32 = .ok (.lui 7 16 0x1234) ∧
    decode true 0x00F07902#32 = .error (.nonZeroNa 0x00F07902#32) := by decide

theorem test_decodeBytes_orders :
    decodeBytes false .little [0x20, 0x50, 0x09, 0x01, 0xFF] = .ok (.add 8 9 10 0, [0xFF]) ∧
    decodeBytes false .big [0x01, 0x09, 0x50, 0x20] = .ok (.add 8 9 10 0, []) ∧
    decodeBytes false .little [0x20, 0x50, 0x09] = .error .truncated := by decide

theorem test_decodeTableWord :
    decodeTableWord 32 0x0C000006 = some (.jal 6) ∧ decodeTableWord 32 0x03E00008 = none := by decide

theorem test_withFetchWord_first_after_reset :
    after (State.reset.withFetchWord 32 0x2413FFFF) [19] [] = some (0x00000004#32, [0x0000FFFF#32], []) := by decide

/-- V-F1 to V-F4. -/
theorem test_fetch :
    after (State.powerOn .default [0x20080001#32] []) [8] [] = some (0x00000004#32, [0x00000001#32], []) ∧
    stopOf ((State.powerOn .default [0x20080001#32] []).setPc 0x00000004#32) = some (.unloadedFetch 0x00000004#32) ∧
    after ((State.powerOn .default [0x20080001#32] []).setPc 0x00000400#32) [8] [] =
      some (0x00000404#32, [0x00000001#32], []) ∧
    stopOf ((State.powerOn .default [0x20080001#32] []).setPc 0x00000002#32) =
      some (.misalignedFetch 0x00000002#32) := by decide

/-- V-F6. -/
theorem test_pc_wraps : after (boot .default 0xFFFFFFFC#32 0x00000000#32 [] []) [] [] = some (0x00000000#32, [], []) := by
  decide

/-- R60: where the parameters treat an unwritten word as a free draw, LW gives the free value. -/
theorem test_lw_free_draw :
    after (boot { Config.default with unwrittenData := .freeDraw } 0x00000000#32 0x8C090020#32 [] []) [9] [] =
      some (0x00000004#32, [Config.unwrittenWord 8#8], []) := rfl

/-- The `li` lines of L1.2, the listing's `jalr $0, $ra` and `beqz $t3` (R85, R86). -/
theorem test_assemble :
    (assemble .default 0x00000000#32 (.li 16 0x12345678#32)).map encode = [0x3C081234#32, 0x35105678#32] ∧
    (assemble .default 0x00000000#32 .nop).map encode = [0x00000000#32] ∧
    (assemble .default 0x00000070#32 (.jalr 0 31)).map encode = [0x03E00009#32] ∧
    (assemble .default 0x00000044#32 (.beqz 11 0x0000006C#32)).map encode = [0x1160000A#32] ∧
    registerNumber "$t0" = some 8 ∧ registerNumber "$sp" = some 29 ∧ registerNumber "$ra" = some 31 := by decide

/-! ### Witnesses: for each obligation with hypotheses a concrete state and operands that meet them -/

theorem witness_DecodeInvertsEncode :
    (Instr.jalr 31 0 30 0).wellFormed true = true ∧ (Instr.jalr 31 30 29 28).wellFormed false = true := by decide

theorem witness_EncodeInvertsDecode :
    decode true 0x03E00009#32 = .ok (.jalr 31 0 0 0) ∧ decode false 0x0105F8C9#32 = .ok (.jalr 8 5 31 3) := by decide

theorem witness_DecodeSelectsTheMatchingRow :
    (Instr.and 0 0 0 0).row ∈ figure3 ∧ 0x0109FFE4#32 &&& (Instr.and 0 0 0 0).row.mask = (Instr.and 0 0 0 0).row.matchBits := by
  decide

theorem witness_StrictNaAddsTheStrictMask :
    decode true 0x01095020#32 = .ok (.add 8 9 10 0) ∧ decode false 0x01095160#32 = .ok (.add 8 9 10 5) ∧
    0x01095160#32 &&& (Instr.add 8 9 10 5).row.strictMask ≠ (Instr.add 8 9 10 5).row.matchBits := by decide

/-- pc at the last word of IMEM. -/
def atLastWord : State := boot .default 0x000003FC#32 0x01095020#32 [] []

theorem witness_StepRunsTheDecodedInstruction :
    atLastWord.pc.extractLsb' 0 2 = 0b00#2 ∧
    readWord atLastWord.cfg.endian atLastWord.imem (atLastWord.pc.extractLsb' 2 8) = some 0x01095020#32 ∧
    decode atLastWord.cfg.strictNa 0x01095020#32 = .ok (.add 8 9 10 0) ∧
    (Instr.add 8 9 10 0).wellFormed atLastWord.cfg.strictNa = true := by decide

theorem witness_FetchFaultsInOrder_misaligned : (atLastWord.setPc 0x000003FF#32).pc.extractLsb' 0 2 ≠ 0b00#2 := by decide

theorem witness_FetchFaultsInOrder_unloaded :
    (atLastWord.setPc 0x000003F8#32).pc.extractLsb' 0 2 = 0b00#2 ∧
    readWord .little atLastWord.imem ((atLastWord.setPc 0x000003F8#32).pc.extractLsb' 2 8) = none := by decide

theorem witness_FetchFaultsInOrder_illegal :
    (boot .default 0#32 0x0000000C#32 [] []).pc.extractLsb' 0 2 = 0b00#2 ∧
    readWord .little (boot .default 0#32 0x0000000C#32 [] []).imem 0#8 = some 0x0000000C#32 ∧
    ∀ i, decode false 0x0000000C#32 ≠ .ok i :=
  ⟨by decide, by decide, fun i h => by
    rw [show decode false 0x0000000C#32 = .error (.unknownFunct 0xC#6) by decide] at h; simp at h⟩

/-- R197: `j` to itself (V-J2) and `beq $0, $0` to itself under either base (V-B4, V-B7). -/
theorem witness_SelfTransferRepeatsForever :
    atSelfTransfer (boot .default 0x10000040#32 0x08000010#32 [] []) = true ∧
    atSelfTransfer (boot .default 0x00000020#32 0x10000000#32 [] []) = true ∧
    atSelfTransfer (boot { Config.default with iPcOffset := .four } 0x00000020#32 0x1000FFFF#32 [] []) = true ∧
    atSelfTransfer (boot .default 0x00000020#32 0x1000FFFF#32 [] []) = false := by decide

theorem witness_PowerOnLoadsTheImage : (List.replicate 256 0x00000000#32).length ≤ 256 :=
  Nat.le_of_eq List.length_replicate

/-- A state whose next instruction stores x[9] at address 0x3FC, with one data word written. -/
def storing : State := boot .default 0x00000000#32 0xAFA9FFFC#32 [(9, 0x00000001#32)] [(7, 0x00000055#32)]

theorem witness_StepKeepsInvariant :
    Invariant storing ∧ ∃ t, step storing = .next t := by
  refine ⟨⟨?_, ?_, ?_, ?_, by decide⟩, _, rfl⟩
  · exact wf_writeWord _ _ _ wf_nil
  · exact wholeWords_writeWord _ _ _ wholeWords_nil
  · exact wf_writeWord _ _ _ wf_nil
  · exact wholeWords_writeWord _ _ _ wholeWords_nil

theorem witness_ProgramIsConstant :
    (∃ t, storing.memWrite 0x000003FC#32 0x00000001#32 = .ok t) ∧ ∃ t, Host.Core.run Sys2Proof.core 1 storing = .next t :=
  ⟨⟨_, rfl⟩, _, rfl⟩

theorem witness_OnlyStoresChangeData :
    (∃ t, exec (.lw 0 9 28) storing = .next t) ∧ ∀ rs rt imm16, Instr.lw 0 9 28 ≠ .sw rs rt imm16 :=
  ⟨⟨_, rfl⟩, by simp⟩

theorem witness_OnlyTransfersMovePc :
    (∃ t, exec (.beq 9 0 5) storing = .next t) ∧ storing.readReg 9 ≠ storing.readReg 0 ∧
    ∃ t, exec (.sw 29 9 0xFFFC) storing = .next t :=
  ⟨⟨_, rfl⟩, by decide, _, rfl⟩

/-- Two states that differ in a register the instruction does not read. -/
theorem witness_ReadsAndWritesTable :
    (∃ t, exec (.add 9 9 10 0) storing = .next t) ∧ (storing.writeReg 11 5#32).pc = storing.pc ∧
    (storing.writeReg 11 5#32).cfg = storing.cfg ∧ (storing.writeReg 11 5#32).dmem = storing.dmem ∧
    (∀ r ∈ sources (.add 9 9 10 0), (storing.writeReg 11 5#32).readReg r = storing.readReg r) ∧
    (storing.writeReg 11 5#32).readReg 11 ≠ storing.readReg 11 ∧ destination (.add 9 9 10 0) ≠ some 11 :=
  ⟨⟨_, rfl⟩, rfl, rfl, rfl, by decide, by decide, by decide⟩

/-- Two states that differ above bit 4 of a variable shift's distance register. -/
theorem witness_ReadsAndWritesTable_shift :
    (storing.writeReg 9 0xFFFFFFE1#32).readReg 10 = storing.readReg 10 ∧
    ((storing.writeReg 9 0xFFFFFFE1#32).readReg 9).extractLsb' 0 5 = (storing.readReg 9).extractLsb' 0 5 ∧
    (storing.writeReg 9 0xFFFFFFE1#32).readReg 9 ≠ storing.readReg 9 := by decide

theorem witness_RegisterZeroDiscardsWrites :
    (31 : RegNum) ≠ 0#5 ∧ destination (.add 9 9 0 0) = some 0#5 ∧ (∃ t, exec (.add 9 9 0 0) storing = .next t) ∧
    exec (.lw 0 0 32) storing = .fault (.uninitialisedRead 0x00000020#32) :=
  ⟨by decide, by decide, ⟨_, rfl⟩, rfl⟩

/-- An aligned address, its alias at the top of the address space, another word, and the bytes beside the word. -/
theorem witness_WriteThenRead :
    (0x000003FC#32).extractLsb' 0 2 = 0b00#2 ∧ (0xFFFFFFFC#32).extractLsb' 2 8 = (0x000003FC#32).extractLsb' 2 8 ∧
    (0xFFFFFFFC#32).extractLsb' 0 2 = 0b00#2 ∧ (0x000003F8#32).extractLsb' 2 8 ≠ (0x000003FC#32).extractLsb' 2 8 ∧
    1019 < byteAddress (wordIndex 0x000003FC#32) ∧ byteAddress (wordIndex 0x000003FC#32) + 4 ≤ 1024 := by decide

/-- `storing` with MISALIGNED_DATA = force_align. -/
def forced : State := { storing with cfg := { Config.default with misalignedData := .forceAlign } }

theorem witness_WriteThenRead_forceAlign : forced.cfg.misalignedData = .forceAlign := rfl

theorem witness_AddressesAliasModulo1024 :
    (0xFFFFFFFC#32).toNat % 1024 = (0x000003FC#32).toNat % 1024 ∧ storing.memRead 0xFFFFFC1C#32 = .ok 0x00000055#32 := by
  decide

theorem witness_ForceAlignIgnoresLowBits :
    forced.cfg.misalignedData = .forceAlign ∧ (0x0000001F#32).toNat / 4 = (0x0000001C#32).toNat / 4 ∧
    forced.memRead 0x0000001F#32 = .ok 0x00000055#32 ∧
    forced.memRead 0x00000023#32 = .error (.uninitialisedRead 0x00000023#32) := by decide

/-- SW to 0x3FC, an ADD and a SW to another word, LW from an alias of 0x3FC. -/
theorem witness_LoadReturnsLatestStore :
    ∃ t u v, exec (.sw 29 9 0xFFFC) storing = .next t ∧
      RunsWithoutStoreTo (wordIndex (effectiveAddress (storing.readReg 29) 0xFFFC)) [.add 9 9 9 0, .sw 29 9 0xFFF8] t u ∧
      wordIndex (effectiveAddress (u.readReg 0) 0x3FC) = wordIndex (effectiveAddress (storing.readReg 29) 0xFFFC) ∧
      exec (.lw 0 10 0x3FC) u = .next v := by
  refine ⟨_, _, _, rfl, ⟨by simp, _, rfl, fun rs rt imm16 h => ?_, _, rfl, rfl⟩, ?_, rfl⟩
  · simp only [Instr.sw.injEq] at h
    obtain ⟨rfl, rfl, rfl⟩ := h
    decide
  · decide

theorem readWord_nil (e : Endian) (k : WordIndex) : readWord e [] k = none := rfl

/-- `storing` with its words laid out in the other byte order. -/
def storingBig : State :=
  { storing with
    cfg := { Config.default with endian := .big }
    dmem := writeWord .big [] 7 0x00000055#32
    imem := writeWord .big [] 0 0xAFA9FFFC#32 }

theorem witness_ByteOrderIsUnobservable :
    SameWords storing storingBig ∧ storingBig.dmem ≠ storing.dmem ∧ ∃ t, step storing = .next t := by
  refine ⟨⟨fun _ => rfl, rfl, rfl, fun k => ?_, fun k => ?_⟩, by decide, _, rfl⟩
  · show readWord .big (writeWord .big [] 7 0x00000055#32) k = readWord .little (writeWord .little [] 7 0x00000055#32) k
    rw [readWord_writeWord, readWord_writeWord, readWord_nil, readWord_nil]
  · show readWord .big (writeWord .big [] 0 0xAFA9FFFC#32) k = readWord .little (writeWord .little [] 0 0xAFA9FFFC#32) k
    rw [readWord_writeWord, readWord_writeWord, readWord_nil, readWord_nil]

/-- A JALR target that is no multiple of 4 (V-J12). -/
theorem witness_JumpAndLinkRegisterUsesOldTarget :
    ((boot .default 0x00000010#32 0x0100F809#32 [(8, 0x00000202#32)] []).readReg 8).extractLsb' 0 2 ≠ 0b00#2 := by decide

/-- The largest aligned displacement (V-M14), the word written. -/
theorem witness_LoadWordResult :
    (effectiveAddress (storing.readReg 0) 0x7C1C).extractLsb' 0 2 = 0b00#2 ∧
    readWord storing.cfg.endian storing.dmem ((effectiveAddress (storing.readReg 0) 0x7C1C).extractLsb' 2 8) =
      some 0x00000055#32 := by decide

/-- `forced` with unwritten words treated as free draws. -/
def drawing : State := { forced with cfg := { forced.cfg with unwrittenData := .freeDraw } }

theorem witness_LoadWordResult_freeDraw :
    drawing.cfg.misalignedData = .forceAlign ∧ drawing.cfg.unwrittenData = .freeDraw ∧
    readWord drawing.cfg.endian drawing.dmem ((effectiveAddress (drawing.readReg 0) 0x8003).extractLsb' 2 8) = none := by
  decide

theorem witness_LoadWordStops :
    (effectiveAddress (storing.readReg 9) 0).extractLsb' 0 2 ≠ 0b00#2 ∧ storing.cfg.misalignedData = .fault ∧
    (effectiveAddress (storing.readReg 0) 32).extractLsb' 0 2 = 0b00#2 ∧
    readWord storing.cfg.endian storing.dmem ((effectiveAddress (storing.readReg 0) 32).extractLsb' 2 8) = none ∧
    storing.cfg.unwrittenData = .fault := by decide

theorem witness_StoreWordResult :
    (effectiveAddress (storing.readReg 29) 0xFFFC).extractLsb' 0 2 = 0b00#2 ∧ forced.cfg.misalignedData = .forceAlign ∧
    1019 < byteAddress (wordIndex (effectiveAddress (storing.readReg 29) 0xFFFC)) := by decide

theorem witness_StoreWordStops :
    (effectiveAddress (storing.readReg 9) 0).extractLsb' 0 2 ≠ 0b00#2 ∧ storing.cfg.misalignedData = .fault := by decide

theorem witness_LiLoadsItsConstant : (8 : RegNum) ≠ 0#5 ∧ (16 : RegNum) ≠ 0#5 ∧ (16 : RegNum) ≠ 8#5 ∧ (9 : RegNum) ≠ 16 := by
  decide

/-- The last word of the region, and the two farthest labels of a BEQ (V-B10, V-B11). -/
theorem witness_AssembledTransfersReachTheirLabel :
    (0x0FFFFFFC#32).toNat % 4 = 0 ∧ (0x0FFFFFFC#32).toNat / 2 ^ 28 = (transferBase storing).toNat / 2 ^ 28 ∧
    storing.readReg 0 = storing.readReg 29 ∧
    0xFFFE0000#32 = BitVec.ofInt 32 ((transferBase storing).toInt + 4 * (-32768)) ∧
    0x0001FFFC#32 = BitVec.ofInt 32 ((transferBase storing).toInt + 4 * 32767) := by decide

theorem witness_AluComputesTheInstructions :
    (∃ t, exec (.slt 9 0 10 0) storing = .next t) ∧ destination (.slt 9 0 10 0) = some 10 ∧ (10 : RegNum) ≠ 0#5 :=
  ⟨⟨_, rfl⟩, rfl, by decide⟩

/-- A write of location 31 while both ports read: one the location written, one location 0. -/
def writing : BankIn := { en := true, we := true, addrRa := 31, addrRb := 0, addrW := 31, dataW := 0x00000005#32, draw := 0 }

theorem witness_RegisterBankWritesThrough :
    writing.en = true ∧ (bankEdge bankReset writing).dataRa = 0x00000005#32 ∧
    (bankEdge bankReset writing).dataRb = 0x00000000#32 := by decide

/-- A pipeline with a taken branch in stage E, its two successors behind it, and a result in stage U. -/
def flowing : Pipeline :=
  { arch := { State.powerOn .default [0x10000002#32, 0x00000000#32, 0x00000000#32] [] with pc := 0x00000008#32 }
    inD := some ⟨0x00000004#32, .ok 0x00000000#32⟩
    inE := some ⟨0x00000000#32, .ok (.beq 0 0 2), 0#32, 0#32⟩
    inU := some (9, 0x00000003#32) }

theorem flowing_coherent : flowing.Coherent := by
  refine ⟨fun f h => ?_, fun e h => ?_⟩
  · obtain rfl := Option.some.inj h
    exact ⟨by decide, by decide⟩
  · obtain rfl := Option.some.inj h
    refine ⟨by decide, fun i hi => ?_, by decide⟩
    obtain rfl := Except.ok.inj hi
    exact ⟨by decide, by decide⟩

/-- The pipeline on an instruction memory that is not loaded, its fetch's fault in stage E. -/
def faulting : Pipeline :=
  { arch := State.reset.setPc 0x00000004#32
    inD := none
    inE := some ⟨0x00000000#32, .error (.unloadedFetch 0x00000000#32), 0#32, 0#32⟩
    inU := none }

/-- Free signals: a stall or none, the bank's enable, the rest arbitrary. -/
def signals (stall rfEn : Bool) : Signals :=
  { stall := stall, rfEn := rfEn, rfDraw := 3, imemEn := false, dmemEn := false, idleAddr := 0x3FF, idleWrite := 0xFFFFFFFF#32 }

theorem witness_PipelineCycleImplementsStep :
    flowing.Coherent ∧ flowing.BankServes (signals false true) ∧ (∃ q, flowing.cycle (signals false true) = .ok q) ∧
    flowing.inE ≠ none ∧ (Pipeline.empty State.reset).inE = none ∧
    ∃ q, (Pipeline.empty State.reset).cycle (signals true true) = .ok q :=
  ⟨flowing_coherent, ⟨rfl, fun _ => ⟨rfl, rfl⟩⟩, ⟨_, rfl⟩, by decide, rfl, _, rfl⟩

theorem witness_PipelineCycleImplementsStep_fault :
    faulting.Coherent ∧ faulting.cycle (signals false false) = .error (.unloadedFetch 0x00000000#32) := by
  refine ⟨⟨fun f h => by simp [faulting] at h, fun e h => ?_⟩, rfl⟩
  obtain rfl := Option.some.inj h
  exact ⟨by decide, fun i hi => by simp at hi, by decide⟩

/-- Three cycles run the first instruction of `storing`; three more reach the fault of the word after it. -/
theorem witness_PipelineRunIsMachineRun :
    (∀ c ∈ [signals false true, signals true true], c.rfEn = true) ∧
    (Pipeline.empty storing).Served [signals false true, signals true true] ∧
    (∃ q, (Pipeline.empty storing).run (List.replicate 3 (signals false true)) = .ok q) ∧
    ∃ f, (Pipeline.empty storing).run
      [signals false true, signals true true, signals false true, signals false true, signals false true] = .error f :=
  ⟨by decide, ⟨⟨rfl, fun _ => ⟨rfl, rfl⟩⟩, fun _ _ => ⟨⟨rfl, fun _ => ⟨rfl, rfl⟩⟩, fun _ _ => trivial⟩⟩, ⟨_, rfl⟩, _, rfl⟩

/-- One step of `storing`, after which the word at 4 is not loaded. -/
theorem witness_PipelineReachesEveryMachineState :
    (signals false true).stall = false ∧ (signals false true).rfEn = true ∧
    ∃ t, Host.Core.run Sys2Proof.core 1 storing = .next t ∧ step t = .fault (.unloadedFetch 0x00000004#32) :=
  ⟨rfl, rfl, _, rfl, rfl⟩

theorem witness_TakenTransferCostsTwoCycles :
    (∃ x, flowing.stageE = .ok x ∧ x.pcOp ≠ .next) ∧ (∃ q, flowing.cycle (signals true false) = .ok q) ∧
    (∃ x, (Pipeline.empty storing).stageE = .ok x ∧ x.pcOp = .next) ∧
    (signals false true).stall = false ∧ ∃ q, (Pipeline.empty storing).cycle (signals false true) = .ok q :=
  ⟨⟨_, rfl, by decide⟩, ⟨_, rfl⟩, ⟨_, rfl, rfl⟩, rfl, _, rfl⟩

/-- Two settings of the signals that differ in the bank's enable, two that differ in a memory enable alone, a cycle that goes on under both and one that stops. -/
theorem witness_HowFarTheFreeSignalsReach :
    (signals false false).stall = (signals false true).stall ∧ (signals false false).rfEn ≠ (signals false true).rfEn ∧
    { signals false true with dmemEn := true } ≠ signals false true ∧
    (∃ q, flowing.cycle (signals false true) = .ok q) ∧
    faulting.cycle (signals true true) = .error (.unloadedFetch 0x00000000#32) :=
  ⟨rfl, by decide, by decide, ⟨_, rfl⟩, rfl⟩

/-- A SW in stage E drives the address 0x3FC and the value forwarded from stage U. -/
def storingInE : Pipeline :=
  { arch := storing.setPc 0x00000008#32, inD := none
    inE := some ⟨0x00000000#32, .ok (.sw 29 9 0xFFFC), 0#32, 1#32⟩, inU := some (9, 0x00000007#32) }

theorem test_ports :
    storingInE.ports (signals false true) = ⟨false, 8, false, true, 0x3FC, 0x00000007#32⟩ ∧
    faulting.ports (signals false true) = ⟨false, 4, false, false, 0x3FF, 0xFFFFFFFF#32⟩ := by decide

/-- A LW in stage E whose base is forwarded from stage U, its address an alias of a written word. -/
def loadingInE : Pipeline :=
  { arch := storing.setPc 0x00000400#32, inD := none
    inE := some ⟨0x00000000#32, .ok (.lw 8 10 0xFFFC), 0#32, 1#32⟩, inU := some (8, 0x00000420#32) }

/-- A cycle with a SW in stage E and one with a LW whose word holds a value; the second latches a loaded word for stage D. -/
theorem witness_PortsDriveTheMemories :
    (∃ q, storingInE.cycle (signals false true) = .ok q) ∧
    (∃ q, loadingInE.cycle (signals false true) = .ok q ∧ q.inU = some (10, 0x00000055#32) ∧
      q.inD = some ⟨0x00000400#32, .ok 0xAFA9FFFC#32⟩) ∧
    readWord .little loadingInE.arch.dmem ((loadingInE.ports (signals false true)).dmemAddr.extractLsb' 2 8) =
      some 0x00000055#32 :=
  ⟨⟨_, rfl⟩, ⟨_, rfl, rfl, rfl⟩, by decide⟩

end Sys2Proof.Tests
end

-- ==== State: what registers, memories and one instruction do ====
section
/-! PROOFS. Rules about the state that the statements of 10_state.md need: the register bank after reset and after a
write, the memories at the start of a run, what an instruction leaves alone and what its result depends on. -/

namespace Sys2Proof.Machine

/-! ### Registers (R21, R22) -/

/-- The bank reset leaves: every register reads 0 (R32). -/
theorem readBank_replicate_zero (r : RegNum) :
    readBank (Vector.replicate 32 0x00000000#32) r = 0x00000000#32 := by
  simp [readBank]

/-- A write to register 0 is discarded: the whole state is as it was (R22). -/
@[simp] theorem State.writeReg_zero (s : State) (v : Word) : s.writeReg 0#5 v = s := rfl

/-- A register write is seen in no other register. -/
theorem readReg_writeReg_of_ne {s : State} {d r : RegNum} {v : Word} (h : r ≠ d) :
    (s.writeReg d v).readReg r = s.readReg r := by
  rw [readReg_writeReg]
  by_cases hr : r = 0#5
  · simp [hr]
  · simp [hr, h]

/-- A register write of the same value reads back alike from any two states. -/
theorem readReg_writeReg_same_value (s s' : State) (d : RegNum) (v : Word) :
    (s'.writeReg d v).readReg d = (s.writeReg d v).readReg d := by
  simp [readReg_writeReg]

/-! ### The step (R27) -/

theorem misaligned_eq_false {a : Word} : misaligned a = false ↔ a.extractLsb' 0 2 = 0b00#2 := by
  simp [misaligned]

/-- Where the fetch gives an instruction, the step is that instruction and nothing else. -/
theorem step_of_fetchInstr {s : State} {i : Instr} (h : s.fetchInstr s.pc = .ok i) : step s = exec i s := by
  simp [step, h]

/-! ### The memories at the start of a run (R45, R60, D12 to D14) -/

/-- Everything the storing of a program image from word `k` on does to a word read, where the image fits: a word of the
image stands at its index, every other word is unchanged. -/
theorem readWord_loadFrom (e : Endian) (ws : List Word) (k : Nat) (m : Memory) (l : WordIndex)
    (hfit : k + ws.length ≤ 256) :
    readWord e (loadFrom e k ws m) l =
      if k ≤ l.toNat then ws[l.toNat - k]?.or (readWord e m l) else readWord e m l := by
  induction ws generalizing k m with
  | nil => simp [loadFrom]
  | cons w ws ih =>
    rw [List.length_cons] at hfit
    have hk : (BitVec.ofNat 8 k).toNat = k := Nat.mod_eq_of_lt (by omega)
    have hl : l = BitVec.ofNat 8 k ↔ l.toNat = k := by rw [← BitVec.toNat_inj, hk]
    rw [loadFrom, ih (k + 1) _ (by omega), readWord_writeWord]
    rcases Nat.lt_trichotomy l.toNat k with hlt | heq | hgt
    · have hne : l.toNat ≠ k := by omega
      simp [hl, hne, show ¬ k + 1 ≤ l.toNat by omega, show ¬ k ≤ l.toNat by omega]
    · simp [hl, heq]
    · have hne : l.toNat ≠ k := by omega
      have hsub : l.toNat - k = l.toNat - (k + 1) + 1 := by omega
      simp [hl, hne, show k + 1 ≤ l.toNat by omega, show k ≤ l.toNat by omega, hsub]

/-- IMEM at the start of a run holds the image's words and no other. -/
theorem readWord_loadImage (e : Endian) (image : List Word) (l : WordIndex) :
    readWord e (loadImage e image) l = image[l.toNat]? := by
  have hl : l.toNat < 256 := l.isLt
  have hnil : readWord e [] l = none := rfl
  rw [loadImage, readWord_loadFrom _ _ _ _ _ (by simp)]
  simp [hnil, hl]

/-- DMEM at the start of a run holds what DMEM_INIT says; its first entry for a word counts. -/
theorem readWord_initData (e : Endian) (data : List (WordIndex × Word)) (k : WordIndex) :
    readWord e (initData e data) k = (data.find? (fun p => p.1 == k)).map Prod.snd := by
  induction data with
  | nil => rfl
  | cons p data ih =>
    rw [initData, readWord_writeWord, ih]
    by_cases h : p.1 = k
    · simp [h]
    · simp [h, Ne.symm h]

/-- Storing a program image leaves a memory made of whole words. -/
theorem wholeWords_loadFrom (e : Endian) (ws : List Word) (k : Nat) {m : Memory} (h : m.wholeWords) :
    Memory.wholeWords (loadFrom e k ws m) := by
  induction ws generalizing k m with
  | nil => exact h
  | cons w ws ih => exact ih (k + 1) (wholeWords_writeWord e _ w h)

/-- Storing the initial data gives a memory made of whole words. -/
theorem wholeWords_initData (e : Endian) (data : List (WordIndex × Word)) :
    Memory.wholeWords (initData e data) := by
  induction data with
  | nil => exact wholeWords_nil
  | cons p data ih => exact wholeWords_writeWord e p.1 p.2 ih

/-! ### What an instruction leaves alone (R24, R26) -/

/-- The column "writes" of R24: every register but the destination reads as before. -/
theorem exec_readReg_of_ne_destination {i : Instr} {s t : State} {r : RegNum} (h : exec i s = .next t)
    (hr : destination i ≠ some r) : t.readReg r = s.readReg r := by
  rcases exec_next h with ⟨d, v, p, hd, rfl⟩ | ⟨p, -, rfl⟩ | ⟨rs, rt, imm16, -, -, rfl⟩
  · have hne : r ≠ d := fun hrd => hr (hrd ▸ hd)
    simp [readReg_writeReg_of_ne hne]
  · simp
  · simp

/-- The end of every register instruction moves pc on by 4. -/
theorem writeBack_pc {s t : State} {d : RegNum} {v : Word} (h : s.writeBack d v = .next t) :
    t.pc = s.pc + 4#32 := by
  simp [writeBack_next h]

/-- An LW that completes moves pc on by 4. -/
theorem execLw_pc {s t : State} {rs rt : RegNum} {imm16 : Imm16} (h : execLw rs rt imm16 s = .next t) :
    t.pc = s.pc + 4#32 := by
  unfold execLw at h
  split at h
  · exact writeBack_pc h
  · simp at h

/-- An SW that completes moves pc on by 4. -/
theorem execSw_pc {s t : State} {rs rt : RegNum} {imm16 : Imm16} (h : execSw rs rt imm16 s = .next t) :
    t.pc = s.pc + 4#32 := by
  unfold execSw at h
  split at h
  next u hu =>
    obtain ⟨-, rfl⟩ := memWrite_ok.1 hu
    obtain rfl := Host.Outcome.next.inj h
    simp
  next => simp at h

/-- A BEQ of unequal operands moves pc on by 4. -/
theorem execBeq_of_ne {s : State} {rs rt : RegNum} (imm16 : Imm16) (h : s.readReg rs ≠ s.readReg rt) :
    execBeq rs rt imm16 s = .next s.advance := by
  simp [execBeq, h]

/-- LW stops exactly where its memory read does, whatever its destination. -/
theorem execLw_fault_iff {s : State} {rs rt : RegNum} {imm16 : Imm16} {f : Fault} :
    execLw rs rt imm16 s = .fault f ↔ s.memRead (effectiveAddress (s.readReg rs) imm16) = .error f := by
  unfold execLw
  cases s.memRead (effectiveAddress (s.readReg rs) imm16) <;> simp [State.writeBack]

/-! ### What an instruction's result depends on (R24) -/

/-- Two states agree on all that an instruction can read beside the general registers. -/
def SameInputs (s s' : State) : Prop := s'.pc = s.pc ∧ s'.cfg = s.cfg ∧ s'.dmem = s.dmem

/-- An instruction with the destination `dest` completes at `s'` with the pc, the data memory and the destination's value
of `t`. -/
def CompletesLike (dest : Option RegNum) (t : State) (o : Host.Outcome State Fault Refusal) : Prop :=
  ∃ t', o = .next t' ∧ t'.pc = t.pc ∧ t'.dmem = t.dmem ∧ ∀ d, dest = some d → t'.readReg d = t.readReg d

/-- The data reads of two such states agree. -/
theorem memRead_congr {s s' : State} (hin : SameInputs s s') (a : Word) : s'.memRead a = s.memRead a := by
  obtain ⟨-, hcfg, hdmem⟩ := hin
  unfold State.memRead State.dataMisaligned
  rw [hcfg, hdmem]

/-- Writing the same value back completes alike. -/
theorem writeBack_congr {s s' t : State} {d : RegNum} {v v' : Word} (hin : SameInputs s s') (hv : v' = v)
    (h : s.writeBack d v = .next t) : CompletesLike (some d) t (s'.writeBack d v') := by
  obtain ⟨hpc, -, hdmem⟩ := hin
  obtain rfl := writeBack_next h
  subst hv
  refine ⟨_, rfl, by simp [hpc], by simp [hdmem], fun r hr => ?_⟩
  obtain rfl := Option.some.inj hr
  simpa using readReg_writeReg_same_value s s' d v'

/-- An R-type operation depends on its two operands. -/
theorem registerOp_congr {s s' t : State} {f : Word → Word → Word} {rs rt rd : RegNum} (hin : SameInputs s s')
    (hrs : s'.readReg rs = s.readReg rs) (hrt : s'.readReg rt = s.readReg rt)
    (h : s.registerOp f rs rt rd = .next t) : CompletesLike (some rd) t (s'.registerOp f rs rt rd) :=
  writeBack_congr hin (by rw [hrs, hrt]) h

/-- An I-type operation depends on its register operand. -/
theorem immediateOp_congr {s s' t : State} {f : Word → Word → Word} {rs rt : RegNum} {v : Word}
    (hin : SameInputs s s') (hrs : s'.readReg rs = s.readReg rs) (h : s.immediateOp f rs rt v = .next t) :
    CompletesLike (some rt) t (s'.immediateOp f rs rt v) :=
  writeBack_congr hin (by rw [hrs]) h

/-- A transfer without a link completes alike where it goes to the same pc. -/
theorem setPc_congr {s s' : State} {p p' : Word} (hin : SameInputs s s') (hp : p' = p) :
    CompletesLike none (s.setPc p) (.next (s'.setPc p')) := by
  obtain ⟨-, -, hdmem⟩ := hin
  exact ⟨_, rfl, hp, hdmem, by simp⟩

/-- A transfer with a link completes alike where it goes to the same pc. -/
theorem link_congr {s s' : State} {p p' : Word} (d : RegNum) (hin : SameInputs s s') (hp : p' = p) :
    CompletesLike (some d) ((s.writeReg d (linkAddress s.pc)).setPc p)
      (.next ((s'.writeReg d (linkAddress s'.pc)).setPc p')) := by
  obtain ⟨hpc, -, hdmem⟩ := hin
  refine ⟨_, rfl, hp, hdmem, fun r hr => ?_⟩
  obtain rfl := Option.some.inj hr
  simpa [hpc] using readReg_writeReg_same_value s s' d (linkAddress s.pc)

/-- BEQ depends on its two operands. -/
theorem execBeq_congr {s s' t : State} {rs rt : RegNum} {imm16 : Imm16} (hin : SameInputs s s')
    (hrs : s'.readReg rs = s.readReg rs) (hrt : s'.readReg rt = s.readReg rt)
    (h : execBeq rs rt imm16 s = .next t) : CompletesLike none t (execBeq rs rt imm16 s') := by
  obtain ⟨hpc, hcfg, -⟩ := id hin
  unfold execBeq at h ⊢
  rw [hrs, hrt]
  split at h
  next heq =>
    obtain rfl := Host.Outcome.next.inj h
    rw [if_pos heq]
    exact setPc_congr hin (by rw [hcfg, hpc])
  next hne =>
    obtain rfl := Host.Outcome.next.inj h
    rw [if_neg hne]
    exact setPc_congr hin (by rw [hpc])

/-- LW depends on its base register and the data memory. -/
theorem execLw_congr {s s' t : State} {rs rt : RegNum} {imm16 : Imm16} (hin : SameInputs s s')
    (hrs : s'.readReg rs = s.readReg rs) (h : execLw rs rt imm16 s = .next t) :
    CompletesLike (some rt) t (execLw rs rt imm16 s') := by
  unfold execLw at h ⊢
  rw [hrs, memRead_congr hin]
  split at h
  next v hv => exact writeBack_congr hin rfl h
  next => simp at h

/-- SW depends on its base register, the register it stores and the data memory. -/
theorem execSw_congr {s s' t : State} {rs rt : RegNum} {imm16 : Imm16} (hin : SameInputs s s')
    (hrs : s'.readReg rs = s.readReg rs) (hrt : s'.readReg rt = s.readReg rt)
    (h : execSw rs rt imm16 s = .next t) : CompletesLike none t (execSw rs rt imm16 s') := by
  obtain ⟨hpc, hcfg, hdmem⟩ := hin
  unfold execSw at h ⊢
  rw [hrs, hrt]
  split at h
  next u hu =>
    obtain ⟨hm, rfl⟩ := memWrite_ok.1 hu
    obtain rfl := Host.Outcome.next.inj h
    have hm' : s'.dataMisaligned (effectiveAddress (s.readReg rs) imm16) = false := by
      rwa [dataMisaligned_eq_false, hcfg, ← dataMisaligned_eq_false]
    rw [memWrite_ok.2 ⟨hm', rfl⟩]
    exact ⟨_, rfl, by simp [hpc], by simp [hcfg, hdmem], by simp⟩
  next => simp at h

/-- The column "reads" of R24: states that agree on the sources, pc, the parameters and the data memory complete alike. -/
theorem exec_congr {i : Instr} {s s' t : State} (hin : SameInputs s s')
    (hsrc : ∀ r ∈ sources i, s'.readReg r = s.readReg r) (h : exec i s = .next t) :
    CompletesLike (destination i) t (exec i s') := by
  obtain ⟨hpc, hcfg, -⟩ := id hin
  cases i
  case j imm26 =>
    obtain rfl := Host.Outcome.next.inj h
    exact setPc_congr hin (by rw [hcfg, hpc])
  case jal imm26 =>
    obtain rfl := Host.Outcome.next.inj h
    exact link_congr _ hin (by rw [hcfg, hpc])
  case jalr rs rt rd shamt =>
    obtain rfl := Host.Outcome.next.inj h
    exact link_congr _ hin (hsrc rs (by simp [sources]))
  case beq rs rt imm16 =>
    exact execBeq_congr hin (hsrc rs (by simp [sources])) (hsrc rt (by simp [sources])) h
  case lw rs rt imm16 => exact execLw_congr hin (hsrc rs (by simp [sources])) h
  case sw rs rt imm16 =>
    exact execSw_congr hin (hsrc rs (by simp [sources])) (hsrc rt (by simp [sources])) h
  case lui rs rt imm16 => exact writeBack_congr hin rfl h
  case sll rs rt rd shamt | srl rs rt rd shamt | sra rs rt rd shamt =>
    exact writeBack_congr hin (by rw [hsrc rt (by simp [sources])]) h
  case sllv rs rt rd shamt | srlv rs rt rd shamt | srav rs rt rd shamt =>
    exact writeBack_congr hin (by rw [hsrc rs (by simp [sources]), hsrc rt (by simp [sources])]) h
  case addi rs rt imm16 | addiu rs rt imm16 | slti rs rt imm16 | sltiu rs rt imm16 | xori rs rt imm16 |
      ori rs rt imm16 | andi rs rt imm16 =>
    exact immediateOp_congr hin (hsrc rs (by simp [sources])) h
  case add rs rt rd shamt | sub rs rt rd shamt | slt rs rt rd shamt | sltu rs rt rd shamt | xor rs rt rd shamt |
      or rs rt rd shamt | and rs rt rd shamt =>
    exact registerOp_congr hin (hsrc rs (by simp [sources])) (hsrc rt (by simp [sources])) h

end Sys2Proof.Machine
end

-- ==== The statements of 10_state.md ====
section

namespace Sys2Proof.Proofs

open Sys2Proof.Machine

/-- Settles O7: the hypotheses are what the fetch of an instruction at pc needs. -/
theorem stepRunsTheDecodedInstruction : Obligations.StepRunsTheDecodedInstruction := by
  intro s w i hpc hw hdec _
  exact step_of_fetchInstr (fetchInstr_ok.2 ⟨w, misaligned_eq_false.2 hpc, hw, hdec⟩)

/-- Settles O11. -/
theorem resetStateValues : Obligations.ResetStateValues :=
  ⟨readBank_replicate_zero, rfl, rfl, readByte_nil, readByte_nil⟩

/-- Settles O12, by what a word read finds after the image and the initial data are stored. -/
theorem powerOnLoadsTheImage : Obligations.PowerOnLoadsTheImage := by
  intro cfg image data _
  refine ⟨readBank_replicate_zero, rfl, fun a => ?_, readWord_initData cfg.endian data⟩
  have himem : readWord cfg.endian (State.powerOn cfg image data).imem (wordIndex a) =
      image[(a.extractLsb' 2 8).toNat]? := readWord_loadImage cfg.endian image (wordIndex a)
  cases hi : image[(a.extractLsb' 2 8).toNat]? with
  | some w => exact ifetch_ok.2 (himem.trans hi)
  | none => exact ifetch_error.2 ⟨himem.trans hi, rfl⟩

/-- Settles O14: empty memories meet the invariant and every word stored keeps it. -/
theorem invariantAtReset : Obligations.InvariantAtReset := by
  refine ⟨⟨wf_nil, wholeWords_nil, wf_nil, wholeWords_nil, by simp [State.reset]⟩, fun cfg image data => ?_⟩
  exact ⟨wf_initData _ data, wholeWords_initData _ data, wf_loadFrom _ _ 0 wf_nil,
    wholeWords_loadFrom _ _ 0 wholeWords_nil, by simp [State.powerOn]⟩

/-- Settles O18, by the instruction: the transfers are excluded, every other one ends in `State.advance`. -/
theorem onlyTransfersMovePc : Obligations.OnlyTransfersMovePc := by
  intro i s t h hj hjal hjalr hbeq
  cases i
  case j imm26 => exact absurd rfl (hj imm26)
  case jal imm26 => exact absurd rfl (hjal imm26)
  case jalr rs rt rd shamt => exact absurd rfl (hjalr rs rt rd shamt)
  case beq rs rt imm16 =>
    obtain rfl := Host.Outcome.next.inj ((execBeq_of_ne imm16 (hbeq rs rt imm16 rfl)).symm.trans h)
    exact State.advance_pc s
  case lw => exact execLw_pc h
  case sw => exact execSw_pc h
  all_goals exact writeBack_pc h

/-- Settles O19, by `exec_readReg_of_ne_destination` for the column "writes" and `exec_congr` for the column "reads". -/
theorem readsAndWritesTable : Obligations.ReadsAndWritesTable := by
  refine ⟨fun i s t h r hr => exec_readReg_of_ne_destination h hr,
    fun i s s' t h hpc hcfg hdmem hsrc => exec_congr ⟨hpc, hcfg, hdmem⟩ hsrc h, ?_⟩
  intro i rs rt rd shamt s s' hi hrt hlow
  have hdist : shiftDistance (s'.readReg rs) = shiftDistance (s.readReg rs) := hlow
  rcases hi with rfl | rfl | rfl
  all_goals
    refine ⟨_, _, rfl, rfl, ?_⟩
    simp only [State.readReg_advance, hrt, hdist]
    exact readReg_writeReg_same_value s s' rd _

/-- Settles O20: a write to register 0 changes no state, so JALR keeps only its jump and LW only its read. -/
theorem registerZeroDiscardsWrites : Obligations.RegisterZeroDiscardsWrites := by
  refine ⟨State.writeReg_zero, fun s d r v hd => ?_, fun i s t hdest h r => ?_, fun s rs rt shamt => rfl,
    fun s rs rt imm16 f => execLw_fault_iff.trans execLw_fault_iff.symm⟩
  · by_cases hr : r = 0#5
    · subst hr
      simp [Ne.symm hd]
    · simp [readReg_writeReg, hr]
  · by_cases hr : r = 0#5
    · subst hr
      rfl
    · exact exec_readReg_of_ne_destination h (by simpa [hdest] using Ne.symm hr)

end Sys2Proof.Proofs
end

-- ==== Memory: addresses, accesses, what an instruction does to the memories ====
section
/-! PROOFS. Rules about the memories that the statements of 20_memory.md need: the two parts of an address, what an
access depends on, and what an instruction and a run leave of both memories. -/

namespace Sys2Proof.Machine

/-! ### Addresses (R47, R50) -/

/-- The word an address names is bits 9:2 as a number. -/
theorem wordIndex_toNat (a : Word) : (wordIndex a).toNat = a.toNat / 4 % 256 := by
  simp [wordIndex, BitVec.extractLsb'_toNat, Nat.shiftRight_eq_div_pow]

theorem misaligned_eq_false_iff_mod {a : Word} : misaligned a = false ↔ a.toNat % 4 = 0 := by
  rw [misaligned_eq_false, ← BitVec.toNat_inj, BitVec.extractLsb'_toNat]
  simp

/-- Addresses with the same quotient by 4, taken modulo 256, name the same word. -/
theorem wordIndex_eq_of_div_mod_eq {a b : Word} (h : b.toNat / 4 % 256 = a.toNat / 4 % 256) :
    wordIndex b = wordIndex a :=
  BitVec.eq_of_toNat_eq (by rw [wordIndex_toNat, wordIndex_toNat, h])

/-- Bits 31:10 do not reach the bus (R47): they play no part in the word named. -/
theorem wordIndex_eq_of_mod_eq {a b : Word} (h : b.toNat % 1024 = a.toNat % 1024) : wordIndex b = wordIndex a :=
  wordIndex_eq_of_div_mod_eq (by omega)

/-- Nor do they play a part in whether the address is aligned. -/
theorem misaligned_eq_of_mod_eq {a b : Word} (h : b.toNat % 1024 = a.toNat % 1024) : misaligned b = misaligned a := by
  rw [Bool.eq_iff_iff, ← not_iff_not]
  simp only [Bool.not_eq_true, misaligned_eq_false_iff_mod]
  omega

theorem dataMisaligned_eq_of_mod_eq {a b : Word} (s : State) (h : b.toNat % 1024 = a.toNat % 1024) :
    s.dataMisaligned b = s.dataMisaligned a := by
  simp [State.dataMisaligned, misaligned_eq_of_mod_eq h]

/-! ### Accesses (R48, R49, R50) -/

/-- Whether an access is stopped depends on MISALIGNED_DATA alone. -/
theorem dataMisaligned_congr {s t : State} (hmis : t.cfg.misalignedData = s.cfg.misalignedData) (a : Word) :
    t.dataMisaligned a = s.dataMisaligned a := by
  simp [State.dataMisaligned, hmis]

/-- A data read depends on two parameters and on the one word it names. -/
theorem memRead_congr_word {s t : State} {a : Word} (hmis : t.cfg.misalignedData = s.cfg.misalignedData)
    (hunw : t.cfg.unwrittenData = s.cfg.unwrittenData)
    (hword : readWord t.cfg.endian t.dmem (wordIndex a) = readWord s.cfg.endian s.dmem (wordIndex a)) :
    t.memRead a = s.memRead a := by
  unfold State.memRead
  rw [dataMisaligned_congr hmis, hunw, hword]

/-- A data read that is not stopped gives the word where it holds a value, whatever R60's treatment of the others. -/
theorem memRead_eq_ok_of_readWord {s : State} {a v w : Word} (h : s.memRead a = .ok v)
    (hw : readWord s.cfg.endian s.dmem (wordIndex a) = some w) : v = w := by
  obtain ⟨-, hr | ⟨hr, -⟩⟩ := memRead_ok.1 h
  · exact Option.some.inj (hr.symm.trans hw)
  · simp [hr] at hw

/-! ### What an instruction does to the memories (R40, R58) -/

/-- No instruction writes the program or a parameter. -/
theorem exec_imem_cfg {i : Instr} {s t : State} (h : exec i s = .next t) : t.imem = s.imem ∧ t.cfg = s.cfg := by
  rcases exec_next h with ⟨d, v, p, -, rfl⟩ | ⟨p, -, rfl⟩ | ⟨rs, rt, imm16, -, -, rfl⟩
  · exact ⟨rfl, rfl⟩
  · exact ⟨rfl, rfl⟩
  · exact ⟨rfl, rfl⟩

/-- Everything an instruction does to the data memory: nothing, or the store of a SW. -/
theorem exec_dmem {i : Instr} {s t : State} (h : exec i s = .next t) :
    t.dmem = s.dmem ∨ ∃ rs rt imm16, i = .sw rs rt imm16 ∧
      t.dmem = writeWord s.cfg.endian s.dmem (wordIndex (effectiveAddress (s.readReg rs) imm16)) (s.readReg rt) := by
  rcases exec_next h with ⟨d, v, p, -, rfl⟩ | ⟨p, -, rfl⟩ | ⟨rs, rt, imm16, hi, -, rfl⟩
  · exact .inl rfl
  · exact .inl rfl
  · exact .inr ⟨rs, rt, imm16, hi, rfl⟩

/-- A run changes neither the program nor a parameter. -/
theorem run_imem_cfg {n : Nat} {s t : State} (h : Host.Core.run Sys2Proof.core n s = .next t) :
    t.imem = s.imem ∧ t.cfg = s.cfg := by
  induction n generalizing s with
  | zero =>
    obtain rfl := Host.Outcome.next.inj h
    exact ⟨rfl, rfl⟩
  | succ n ih =>
    obtain ⟨u, hstep, hrun⟩ := run_succ_next.1 h
    obtain ⟨i, -, hexec⟩ := step_next.1 hstep
    obtain ⟨himem, hcfg⟩ := exec_imem_cfg hexec
    obtain ⟨himem', hcfg'⟩ := ih hrun
    exact ⟨himem'.trans himem, hcfg'.trans hcfg⟩

/-- An instruction that is no SW to the word `k` leaves the word. -/
theorem exec_readWord_of_no_store {i : Instr} {s t : State} {k : WordIndex} (h : exec i s = .next t)
    (hk : ∀ rs rt imm16, i = .sw rs rt imm16 → wordIndex (effectiveAddress (s.readReg rs) imm16) ≠ k) :
    readWord t.cfg.endian t.dmem k = readWord s.cfg.endian s.dmem k := by
  rw [(exec_imem_cfg h).2]
  rcases exec_dmem h with hd | ⟨rs, rt, imm16, hi, hd⟩
  · rw [hd]
  · rw [hd, readWord_writeWord, if_neg (Ne.symm (hk rs rt imm16 hi))]

/-- Instructions none of which stores to the word `k` leave the word. -/
theorem readWord_of_runsWithoutStoreTo {k : WordIndex} {is : List Instr} {s u : State}
    (h : RunsWithoutStoreTo k is s u) : readWord u.cfg.endian u.dmem k = readWord s.cfg.endian s.dmem k := by
  induction is generalizing s with
  | nil => rw [show u = s from h]
  | cons i is ih =>
    obtain ⟨hk, t, hexec, hrest⟩ := h
    exact (ih hrest).trans (exec_readWord_of_no_store hexec hk)

/-- Everything a SW that completes does: the word stored and pc moved on. -/
theorem execSw_next {s t : State} {rs rt : RegNum} {imm16 : Imm16} (h : execSw rs rt imm16 s = .next t) :
    t = (s.setDmem (writeWord s.cfg.endian s.dmem (wordIndex (effectiveAddress (s.readReg rs) imm16))
      (s.readReg rt))).advance := by
  unfold execSw at h
  split at h
  next u hu =>
    obtain ⟨-, rfl⟩ := memWrite_ok.1 hu
    exact (Host.Outcome.next.inj h).symm
  next => simp at h

/-- After a SW the word it names holds the register stored. -/
theorem readWord_of_exec_sw {s t : State} {rs rt : RegNum} {imm16 : Imm16} (h : exec (.sw rs rt imm16) s = .next t) :
    readWord t.cfg.endian t.dmem (wordIndex (effectiveAddress (s.readReg rs) imm16)) = some (s.readReg rt) := by
  obtain rfl := execSw_next h
  simp [readWord_writeWord]

/-- A LW that completes leaves in its destination the word it names, where that holds a value. -/
theorem readReg_of_exec_lw {s t : State} {rs rt : RegNum} {imm16 : Imm16} {w : Word}
    (h : exec (.lw rs rt imm16) s = .next t)
    (hw : readWord s.cfg.endian s.dmem (wordIndex (effectiveAddress (s.readReg rs) imm16)) = some w) :
    t.readReg rt = if rt = 0#5 then 0x00000000#32 else w := by
  simp only [exec, execLw] at h
  split at h
  next v hv =>
    obtain rfl := writeBack_next h
    obtain rfl := memRead_eq_ok_of_readWord hv hw
    simp [readReg_writeReg]
  next => simp at h

end Sys2Proof.Machine
end

-- ==== The byte order: states with the same words ====
section
/-! PROOFS. The relation `SameWords` is kept by every update of the state, and what an instruction reads is the same on
both sides; so no instruction tells two such states apart (R51). -/

namespace Sys2Proof.Machine

/-! ### What two states with the same words read alike -/

theorem SameWords.readReg_eq {s s' : State} (h : SameWords s s') (r : RegNum) : s'.readReg r = s.readReg r := by
  obtain ⟨hregs, -⟩ := h
  exact hregs r

theorem SameWords.pc_eq {s s' : State} (h : SameWords s s') : s'.pc = s.pc := by
  obtain ⟨-, hpc, -⟩ := h
  exact hpc

/-- The parameters are the same but for ENDIAN. -/
theorem SameWords.cfg_eq {s s' : State} (h : SameWords s s') : s'.cfg = { s.cfg with endian := s'.cfg.endian } := by
  obtain ⟨-, -, hcfg, -, -⟩ := h
  exact hcfg

theorem SameWords.iPcOffset_eq {s s' : State} (h : SameWords s s') : s'.cfg.iPcOffset = s.cfg.iPcOffset := by
  rw [h.cfg_eq]

theorem SameWords.strictNa_eq {s s' : State} (h : SameWords s s') : s'.cfg.strictNa = s.cfg.strictNa := by
  rw [h.cfg_eq]

theorem SameWords.misalignedData_eq {s s' : State} (h : SameWords s s') :
    s'.cfg.misalignedData = s.cfg.misalignedData := by
  rw [h.cfg_eq]

theorem SameWords.unwrittenData_eq {s s' : State} (h : SameWords s s') :
    s'.cfg.unwrittenData = s.cfg.unwrittenData := by
  rw [h.cfg_eq]

theorem SameWords.dataMisaligned_eq {s s' : State} (h : SameWords s s') (a : Word) :
    s'.dataMisaligned a = s.dataMisaligned a :=
  dataMisaligned_congr h.misalignedData_eq a

theorem SameWords.memRead_eq {s s' : State} (h : SameWords s s') (a : Word) : s'.memRead a = s.memRead a := by
  obtain ⟨-, -, -, hdmem, -⟩ := id h
  exact memRead_congr_word h.misalignedData_eq h.unwrittenData_eq (hdmem (wordIndex a))

theorem SameWords.fetchInstr_eq {s s' : State} (h : SameWords s s') (a : Word) :
    s'.fetchInstr a = s.fetchInstr a := by
  obtain ⟨-, -, -, -, himem⟩ := id h
  unfold State.fetchInstr State.fetchWord State.ifetch State.decodeAt
  rw [himem (wordIndex a), h.strictNa_eq]

/-- The base of a target depends on I_PC_OFFSET and pc alone. -/
theorem SameWords.targetBase_eq {s s' : State} (h : SameWords s s') :
    targetBase s'.cfg s'.pc = targetBase s.cfg s.pc := by
  simp [targetBase, h.iPcOffset_eq, h.pc_eq]

theorem SameWords.jumpTarget_eq {s s' : State} (h : SameWords s s') (imm26 : Imm26) :
    jumpTarget s'.cfg s'.pc imm26 = jumpTarget s.cfg s.pc imm26 := by
  simp [jumpTarget, h.targetBase_eq]

theorem SameWords.branchTarget_eq {s s' : State} (h : SameWords s s') (imm16 : Imm16) :
    branchTarget s'.cfg s'.pc imm16 = branchTarget s.cfg s.pc imm16 := by
  simp [branchTarget, h.targetBase_eq]

/-! ### Updates keep the words the same -/

theorem SameWords.setPc {s s' : State} {p p' : Word} (h : SameWords s s') (hp : p' = p) :
    SameWords (s.setPc p) (s'.setPc p') := by
  obtain ⟨hregs, -, hcfg, hdmem, himem⟩ := h
  exact ⟨hregs, hp, hcfg, hdmem, himem⟩

theorem SameWords.advance {s s' : State} (h : SameWords s s') : SameWords s.advance s'.advance :=
  h.setPc (by rw [h.pc_eq])

theorem SameWords.writeReg {s s' : State} {v v' : Word} (h : SameWords s s') (d : RegNum) (hv : v' = v) :
    SameWords (s.writeReg d v) (s'.writeReg d v') := by
  obtain ⟨hregs, hpc, hcfg, hdmem, himem⟩ := h
  refine ⟨fun r => ?_, hpc, hcfg, hdmem, himem⟩
  rw [readReg_writeReg, readReg_writeReg, hregs r, hv]

/-- A word stored in each state's own byte order is the same word in both. -/
theorem SameWords.storeWord {s s' : State} {v v' : Word} (h : SameWords s s') (k : WordIndex) (hv : v' = v) :
    SameWords (s.setDmem (writeWord s.cfg.endian s.dmem k v)) (s'.setDmem (writeWord s'.cfg.endian s'.dmem k v')) := by
  obtain ⟨hregs, hpc, hcfg, hdmem, himem⟩ := h
  refine ⟨hregs, hpc, hcfg, fun l => ?_, himem⟩
  simp [readWord_writeWord, hdmem l, hv]

/-! ### Instructions -/

/-- Two outcomes that no program can tell apart: the same fault, or next states with the same words. -/
inductive OutcomesAlike : Host.Outcome State Fault Refusal → Host.Outcome State Fault Refusal → Prop
  | next {t t' : State} (h : SameWords t t') : OutcomesAlike (.next t) (.next t')
  | fault (f : Fault) : OutcomesAlike (.fault f) (.fault f)

theorem OutcomesAlike.of_fault {f : Fault} {o : Host.Outcome State Fault Refusal} (h : OutcomesAlike (.fault f) o) :
    o = .fault f := by
  cases h
  rfl

theorem OutcomesAlike.of_next {t : State} {o : Host.Outcome State Fault Refusal} (h : OutcomesAlike (.next t) o) :
    ∃ t', o = .next t' ∧ SameWords t t' := by
  cases h with
  | next hsame => exact ⟨_, rfl, hsame⟩

theorem SameWords.writeBack_alike {s s' : State} {v v' : Word} (h : SameWords s s') (d : RegNum) (hv : v' = v) :
    OutcomesAlike (s.writeBack d v) (s'.writeBack d v') :=
  .next (h.writeReg d hv).advance

theorem SameWords.registerOp_alike {s s' : State} (h : SameWords s s') (f : Word → Word → Word)
    (rs rt rd : RegNum) : OutcomesAlike (s.registerOp f rs rt rd) (s'.registerOp f rs rt rd) :=
  h.writeBack_alike rd (by rw [h.readReg_eq, h.readReg_eq])

theorem SameWords.immediateOp_alike {s s' : State} (h : SameWords s s') (f : Word → Word → Word)
    (rs rt : RegNum) (v : Word) : OutcomesAlike (s.immediateOp f rs rt v) (s'.immediateOp f rs rt v) :=
  h.writeBack_alike rt (by rw [h.readReg_eq])

theorem SameWords.execBeq_alike {s s' : State} (h : SameWords s s') (rs rt : RegNum) (imm16 : Imm16) :
    OutcomesAlike (execBeq rs rt imm16 s) (execBeq rs rt imm16 s') := by
  unfold execBeq
  rw [h.readReg_eq, h.readReg_eq]
  split
  · exact .next (h.setPc (h.branchTarget_eq imm16))
  · exact .next h.advance

theorem SameWords.execLw_alike {s s' : State} (h : SameWords s s') (rs rt : RegNum) (imm16 : Imm16) :
    OutcomesAlike (execLw rs rt imm16 s) (execLw rs rt imm16 s') := by
  unfold execLw
  rw [h.readReg_eq, h.memRead_eq]
  split
  · exact h.writeBack_alike rt rfl
  · exact .fault _

theorem SameWords.execSw_alike {s s' : State} (h : SameWords s s') (rs rt : RegNum) (imm16 : Imm16) :
    OutcomesAlike (execSw rs rt imm16 s) (execSw rs rt imm16 s') := by
  unfold execSw State.memWrite
  rw [h.readReg_eq, h.readReg_eq, h.dataMisaligned_eq]
  cases s.dataMisaligned (effectiveAddress (s.readReg rs) imm16) with
  | true => exact .fault _
  | false => exact .next (h.storeWord _ rfl).advance

/-- The key step: every instruction, run at two states with the same words, has outcomes no program can tell apart. -/
theorem SameWords.exec_alike {s s' : State} (h : SameWords s s') (i : Instr) :
    OutcomesAlike (exec i s) (exec i s') := by
  cases i
  case j imm26 => exact .next (h.setPc (h.jumpTarget_eq imm26))
  case jal imm26 => exact .next ((h.writeReg _ (by rw [h.pc_eq])).setPc (h.jumpTarget_eq imm26))
  case jalr rs rt rd shamt => exact .next ((h.writeReg rd (by rw [h.pc_eq])).setPc (h.readReg_eq rs))
  case beq rs rt imm16 => exact h.execBeq_alike rs rt imm16
  case lw rs rt imm16 => exact h.execLw_alike rs rt imm16
  case sw rs rt imm16 => exact h.execSw_alike rs rt imm16
  case lui rs rt imm16 => exact h.writeBack_alike rt rfl
  case sll rs rt rd shamt | srl rs rt rd shamt | sra rs rt rd shamt =>
    exact h.writeBack_alike rd (by rw [h.readReg_eq])
  case sllv rs rt rd shamt | srlv rs rt rd shamt | srav rs rt rd shamt =>
    exact h.writeBack_alike rd (by rw [h.readReg_eq, h.readReg_eq])
  case addi rs rt imm16 | addiu rs rt imm16 | slti rs rt imm16 | sltiu rs rt imm16 | xori rs rt imm16 |
      ori rs rt imm16 | andi rs rt imm16 =>
    exact h.immediateOp_alike _ rs rt _
  case add rs rt rd shamt | sub rs rt rd shamt | slt rs rt rd shamt | sltu rs rt rd shamt | xor rs rt rd shamt |
      or rs rt rd shamt | and rs rt rd shamt =>
    exact h.registerOp_alike _ rs rt rd

theorem SameWords.step_alike {s s' : State} (h : SameWords s s') : OutcomesAlike (step s) (step s') := by
  unfold step
  rw [h.pc_eq, h.fetchInstr_eq]
  split
  next i _ => exact h.exec_alike i
  next f _ => exact .fault f

end Sys2Proof.Machine
end

-- ==== The core's ports ====
section
/-! PROOFS. What stage E and the core's outputs do with an instruction in stage E, LW and SW apart from the others
(R43, R44, R206, R208). -/

namespace Sys2Proof.Machine

/-! ### The address port (R47) -/

/-- Bits 9:0 are the address modulo 1024. -/
theorem addressBits_toNat (a : Word) : (a.extractLsb' 0 10).toNat = a.toNat % 1024 := by
  simp

/-- Bits 9:0 still name the word. -/
theorem addressBits_wordIndex (a : Word) : (a.extractLsb' 0 10).extractLsb' 2 8 = wordIndex a := by
  refine BitVec.eq_of_toNat_eq ?_
  rw [BitVec.extractLsb'_toNat, addressBits_toNat, wordIndex_toNat, Nat.shiftRight_eq_div_pow]
  omega

/-! ### Stage E (R208) -/

/-- The data address LW and SW put on the port is the effective address (R120). -/
theorem aluOf_lw (rs rt : RegNum) (imm16 : Imm16) (a b : Word) :
    aluOf (.lw rs rt imm16) a b = effectiveAddress a imm16 := rfl

theorem aluOf_sw (rs rt : RegNum) (imm16 : Imm16) (a b : Word) :
    aluOf (.sw rs rt imm16) a b = effectiveAddress a imm16 := rfl

/-- A LW gives stage U the word at its address, where that holds a value. -/
theorem execute_lw_result {arch : State} {pc a b w : Word} {rs rt : RegNum} {imm16 : Imm16} {x : Executed}
    (h : execute arch pc (.lw rs rt imm16) a b = .ok x)
    (hw : readWord arch.cfg.endian arch.dmem (wordIndex (effectiveAddress a imm16)) = some w) :
    x.result = some (rt, w) := by
  simp only [execute, aluOf_lw] at h
  split at h
  next v hv =>
    obtain rfl := Except.ok.inj h
    rw [memRead_eq_ok_of_readWord hv hw]
  next => simp at h

/-- A SW leaves the data memory with the word at its address replaced. -/
theorem execute_sw_dmem {arch : State} {pc a b : Word} {rs rt : RegNum} {imm16 : Imm16} {x : Executed}
    (h : execute arch pc (.sw rs rt imm16) a b = .ok x) :
    x.dmem = writeWord arch.cfg.endian arch.dmem (wordIndex (effectiveAddress a imm16)) b := by
  simp only [execute, aluOf_sw] at h
  split at h
  next t ht =>
    obtain rfl := Except.ok.inj h
    obtain ⟨-, rfl⟩ := memWrite_ok.1 ht
    rfl
  next => simp at h

/-- Every other instruction leaves the data memory. -/
theorem execute_dmem_of_ne_sw {arch : State} {pc a b : Word} {i : Instr} {x : Executed}
    (h : execute arch pc i a b = .ok x) (hi : ∀ rs rt imm16, i ≠ .sw rs rt imm16) : x.dmem = arch.dmem := by
  cases i
  case sw rs rt imm16 => exact absurd rfl (hi rs rt imm16)
  case lw rs rt imm16 =>
    simp only [execute] at h
    split at h
    · obtain rfl := Except.ok.inj h
      rfl
    · simp at h
  all_goals
    obtain rfl := Except.ok.inj h
    rfl

/-- The write enable is 1 for SW alone. -/
theorem dataPorts_we_iff (c : Signals) (i : Instr) (a b : Word) :
    (dataPorts c i a b).1 = true ↔ ∃ rs rt imm16, i = .sw rs rt imm16 := by
  cases i
  case sw rs rt imm16 => exact ⟨fun _ => ⟨rs, rt, imm16, rfl⟩, fun _ => rfl⟩
  all_goals simp [dataPorts]

/-! ### Stage E of the pipeline -/

/-- With an instruction in stage E the stage executes it on the forwarded operands. -/
theorem Pipeline.stageE_of_instr {p : Pipeline} {e : Issued} {i : Instr} (he : p.inE = some e) (hi : e.instr = .ok i) :
    p.stageE = execute p.arch e.pc i (forward p.inU (rsOf i) e.opA) (forward p.inU (rtOf i) e.opB) := by
  simp [Pipeline.stageE, he, hi]

/-- A latched fault is raised in stage E. -/
theorem Pipeline.stageE_of_fault {p : Pipeline} {e : Issued} {f : Fault} (he : p.inE = some e)
    (hf : e.instr = .error f) : p.stageE = .error f := by
  simp [Pipeline.stageE, he, hf]

/-- A SW is in stage E. -/
def Pipeline.Storing (p : Pipeline) : Prop := ∃ e rs rt imm16, p.inE = some e ∧ e.instr = .ok (.sw rs rt imm16)

/-- Without a SW stage E leaves the data memory. -/
theorem Pipeline.stageE_dmem_of_not_storing {p : Pipeline} {x : Executed} (hx : p.stageE = .ok x) (hp : ¬ p.Storing) :
    x.dmem = p.arch.dmem := by
  cases he : p.inE with
  | none =>
    obtain rfl := Except.ok.inj ((stageE_bubble he).symm.trans hx)
    rfl
  | some e =>
    cases hi : e.instr with
    | error f => simp [stageE_of_fault he hi] at hx
    | ok i =>
      rw [stageE_of_instr he hi] at hx
      refine execute_dmem_of_ne_sw hx ?_
      rintro rs rt imm16 rfl
      exact hp ⟨e, rs, rt, imm16, he, hi⟩

/-! ### The outputs (R43, R44) -/

/-- The write enable is 1 exactly while a SW is in stage E. -/
theorem Pipeline.ports_dmemWe_iff (c : Signals) (p : Pipeline) : (p.ports c).dmemWe = true ↔ p.Storing := by
  unfold Storing
  cases he : p.inE with
  | none => simp [ports, he]
  | some e =>
    obtain ⟨pc, instr, opA, opB⟩ := e
    cases instr with
    | error f => simp [ports, he]
    | ok i => simp [ports, he, dataPorts_we_iff]

/-- While a SW or LW is in stage E the address port carries its effective address. -/
theorem Pipeline.ports_dmemAddr {p : Pipeline} {e : Issued} {rs rt : RegNum} {imm16 : Imm16} (c : Signals)
    (he : p.inE = some e) (hi : e.instr = .ok (.sw rs rt imm16) ∨ e.instr = .ok (.lw rs rt imm16)) :
    (p.ports c).dmemAddr = (effectiveAddress (forward p.inU rs e.opA) imm16).extractLsb' 0 10 := by
  obtain ⟨pc, instr, opA, opB⟩ := e
  rcases hi with rfl | rfl
  · simp [ports, he, dataPorts, aluOf_sw, rsOf]
  · simp [ports, he, dataPorts, aluOf_lw, rsOf]

/-- While a SW is in stage E the write port carries the operand `rt`. -/
theorem Pipeline.ports_dmemWrite {p : Pipeline} {e : Issued} {rs rt : RegNum} {imm16 : Imm16} (c : Signals)
    (he : p.inE = some e) (hi : e.instr = .ok (.sw rs rt imm16)) :
    (p.ports c).dmemWrite = forward p.inU rt e.opB := by
  obtain ⟨pc, instr, opA, opB⟩ := e
  subst hi
  simp [ports, he, dataPorts, rtOf]

/-- What a cycle without a stall latches for stage D, if anything: the fetch at pc (R206). -/
theorem Pipeline.afterE_inD {p : Pipeline} {c : Signals} {x : Executed} {f : Fetched} (hc : c.stall = false)
    (h : (p.afterE c x).inD = some f) : f = ⟨p.arch.pc, p.arch.fetchWord p.arch.pc⟩ := by
  unfold afterE at h
  cases ht : x.pcOp != .next with
  | true => simp [ht] at h
  | false => simpa [ht, hc] using h.symm

end Sys2Proof.Machine
end

-- ==== The statements of 20_memory.md ====
section

namespace Sys2Proof.Proofs

open Sys2Proof.Machine

/-- Settles O15, by what an instruction can do: a register write keeps slot 0, a store keeps the data memory's form. -/
theorem stepKeepsInvariant : Obligations.StepKeepsInvariant := by
  intro s t hinv hstep
  obtain ⟨hdwf, hdwhole, hiwf, hiwhole, hzero⟩ := hinv
  obtain ⟨i, -, hexec⟩ := step_next.1 hstep
  rcases exec_next hexec with ⟨d, v, p, -, rfl⟩ | ⟨p, -, rfl⟩ | ⟨rs, rt, imm16, -, -, rfl⟩
  · exact ⟨hdwf, hdwhole, hiwf, hiwhole, (writeBank_slot_zero s.regs d v).trans hzero⟩
  · exact ⟨hdwf, hdwhole, hiwf, hiwhole, hzero⟩
  · exact ⟨wf_writeWord _ _ _ hdwf, wholeWords_writeWord _ _ _ hdwhole, hiwf, hiwhole, hzero⟩

/-- Settles O16: a store leaves IMEM, and so does every step of a run. -/
theorem programIsConstant : Obligations.ProgramIsConstant := by
  refine ⟨fun s t a v h b => ?_, fun n s t h => ?_⟩
  · obtain ⟨-, rfl⟩ := memWrite_ok.1 h
    exact fetchInstr_congr rfl rfl b
  · obtain ⟨himem, hcfg⟩ := run_imem_cfg h
    exact ⟨⟨fun a => by rw [himem], hcfg⟩, fetchInstr_congr himem hcfg⟩

/-- Settles O17. -/
theorem onlyStoresChangeData : Obligations.OnlyStoresChangeData := by
  intro i s t h hsw a
  rcases exec_dmem h with hd | ⟨rs, rt, imm16, hi, -⟩
  · rw [hd]
  · exact absurd hi (hsw rs rt imm16)

/-- Settles O21, by `readWord_writeWord` for the words and `readByte_writeWord` for the bytes. -/
theorem writeThenRead : Obligations.WriteThenRead := by
  intro s a v ha
  refine ⟨_, memWrite_ok.2 ⟨dataMisaligned_eq_false.2 ha, rfl⟩, fun b hb hal => ?_, fun b hb => ?_,
    fun c hc => ?_, fun r => rfl, rfl, fun c => rfl, rfl⟩
  · have hidx : wordIndex b = wordIndex a := hb
    exact memRead_ok.2 ⟨dataMisaligned_eq_false.2 hal, .inl (by simp [readWord_writeWord, hidx])⟩
  · have hidx : wordIndex b ≠ wordIndex a := hb
    exact memRead_congr_word rfl rfl (by simp [readWord_writeWord, hidx])
  · rw [State.setDmem_dmem, readByte_writeWord, if_neg (by omega)]

/-- Settles O22: neither the word an address names nor its alignment depends on bits 31:10. -/
theorem addressesAliasModulo1024 : Obligations.AddressesAliasModulo1024 := by
  intro s a b h
  have hidx := wordIndex_eq_of_mod_eq h
  refine ⟨fun w => ?_, fun v t => ?_, fun i => ?_⟩
  · rw [memRead_ok, memRead_ok, dataMisaligned_eq_of_mod_eq s h, hidx]
  · rw [memWrite_ok, memWrite_ok, dataMisaligned_eq_of_mod_eq s h, hidx]
  · rw [fetchInstr_ok, fetchInstr_ok, misaligned_eq_of_mod_eq h, hidx]

/-- Settles O23: under force_align no access is misaligned, and the word named depends on the address divided by 4. -/
theorem forceAlignIgnoresLowBits : Obligations.ForceAlignIgnoresLowBits := by
  intro s a b hforce h
  have hidx : wordIndex b = wordIndex a := wordIndex_eq_of_div_mod_eq (by rw [h])
  have hmis : ∀ c, s.dataMisaligned c = false := fun c => dataMisaligned_eq_false.2 (.inr hforce)
  refine ⟨fun w => ?_, fun v => ?_, fun f hf => ?_⟩
  · rw [memRead_ok, memRead_ok, hmis, hmis, hidx]
  · exact ⟨_, memWrite_ok.2 ⟨hmis a, rfl⟩, memWrite_ok.2 ⟨hmis b, by rw [hidx]⟩⟩
  · rcases memRead_error.1 hf with ⟨hm, -⟩ | ⟨-, -, -, rfl⟩
    · simp [hmis a] at hm
    · rfl

/-- Settles O24: the word holds the register stored after the SW, keeps it through the instructions between, and LW
reads it. -/
theorem loadReturnsLatestStore : Obligations.LoadReturnsLatestStore := by
  intro s t u v rs rt ls lt imm16 limm is hsw hruns hidx hlw
  refine readReg_of_exec_lw hlw ?_
  rw [hidx, readWord_of_runsWithoutStoreTo hruns, readWord_of_exec_sw hsw]

/-- Settles O25, by `SameWords.step_alike`: the relation is kept by every step. -/
theorem byteOrderIsUnobservable : Obligations.ByteOrderIsUnobservable := by
  intro s s' h
  have halike := h.step_alike
  refine ⟨fun f hf => ?_, fun t ht => ?_⟩
  · exact (hf ▸ halike).of_fault
  · exact (ht ▸ halike).of_next

/-- Settles O56: clause by clause, the address port's bits naming the word that stage E or the fetch uses. -/
theorem portsDriveTheMemories : Obligations.PortsDriveTheMemories := by
  intro p q c hcycle
  obtain ⟨x, hx, rfl⟩ := Pipeline.cycle_ok.1 hcycle
  refine ⟨addressBits_toNat p.arch.pc, fun hstall f hf => ?_, Pipeline.ports_dmemWe_iff c p,
    fun e rs rt imm16 he hi => ?_, fun e rs rt imm16 he hi => Pipeline.ports_dmemWrite c he hi,
    fun e rs rt imm16 he hi w hw => ?_, ?_⟩
  · obtain rfl := Pipeline.afterE_inD hstall hf
    have haddr : (p.ports c).imemAddr.extractLsb' 2 8 = wordIndex p.arch.pc := addressBits_wordIndex p.arch.pc
    exact ⟨rfl, fun w => by rw [haddr, fetchWord_ok, misaligned_eq_false_iff_mod]⟩
  · rw [Pipeline.ports_dmemAddr c he hi, addressBits_toNat]
  · rw [Pipeline.ports_dmemAddr c he (.inr hi), addressBits_wordIndex] at hw
    exact execute_lw_result ((Pipeline.stageE_of_instr he hi).symm.trans hx) hw
  · by_cases hstore : p.Storing
    · obtain ⟨e, rs, rt, imm16, he, hi⟩ := id hstore
      rw [if_pos ((Pipeline.ports_dmemWe_iff c p).2 hstore), Pipeline.ports_dmemAddr c he (.inl hi),
        Pipeline.ports_dmemWrite c he hi, addressBits_wordIndex]
      exact execute_sw_dmem ((Pipeline.stageE_of_instr he hi).symm.trans hx)
    · rw [if_neg (mt (Pipeline.ports_dmemWe_iff c p).1 hstore)]
      exact Pipeline.stageE_dmem_of_not_storing hx hstore

end Sys2Proof.Proofs
end

-- ==== Encoding: the decoder and the rows of Figure 3 ====
section
/-! PROOFS. Rules about decoding and encoding that the statements of 30_encoding.md need: a word is its fields laid out,
which codes decode, the instruction of a word encodes to it, and what the masks of Figure 3 keep of a word. -/

namespace Sys2Proof

/-! ### A word is its fields laid out (R72 to R74) -/

theorem rType_fields {w : Word} (h : opField w = 0b000000#6) :
    rType (rsField w) (rtField w) (rdField w) (shamtField w) (functField w) = w := by
  rw [rType, ← h]
  simp (disch := decide) only [opField, rsField, rtField, rdField, shamtField, functField,
    BitVec.extractLsb'_append_extractLsb'_eq_extractLsb', BitVec.extractLsb'_eq_self]

theorem iType_fields (w : Word) : iType (opField w) (rsField w) (rtField w) (imm16Field w) = w := by
  simp (disch := decide) only [iType, opField, rsField, rtField, imm16Field,
    BitVec.extractLsb'_append_extractLsb'_eq_extractLsb', BitVec.extractLsb'_eq_self]

theorem jType_fields (w : Word) : jType (opField w) (imm26Field w) = w :=
  BitVec.extractLsb'_append_extractLsb'

/-! ### The codes that decode (R77, R78) -/

/-- The primary opcodes R77 lists, but 000000. -/
abbrev ListedOp (op : BitVec 6) : Prop := op.toNat ∈ [2, 3, 4, 8, 9, 10, 11, 12, 13, 14, 15, 35, 43]

/-- The function codes R78 lists. -/
abbrev ListedFunct (funct : BitVec 6) : Prop :=
  funct.toNat ∈ [0, 2, 3, 4, 6, 7, 9, 32, 34, 36, 37, 38, 42, 43]

theorem exists_decodeFunct_iff {funct : BitVec 6} {rs rt rd : RegNum} {shamt : Shamt} :
    (∃ i, decodeFunct funct rs rt rd shamt = some i) ↔ ListedFunct funct := by
  unfold decodeFunct
  split <;> simp_all

theorem exists_decodeOp_iff {op : BitVec 6} {rs rt : RegNum} {imm16 : Imm16} {imm26 : Imm26} :
    (∃ i, decodeOp op rs rt imm16 imm26 = some i) ↔ ListedOp op := by
  unfold decodeOp
  split <;> simp_all

/-! ### The instruction of a word (R82) -/

/-- Everything the decoder can read from a word under STRICT_NA = false: by `funct` where `op` is 000000, by `op`
elsewhere. -/
theorem decodeRow_ok {w : Word} {i : Instr} :
    decodeRow w = .ok i ↔
      opField w = 0b000000#6 ∧
          decodeFunct (functField w) (rsField w) (rtField w) (rdField w) (shamtField w) = some i ∨
        opField w ≠ 0b000000#6 ∧
          decodeOp (opField w) (rsField w) (rtField w) (imm16Field w) (imm26Field w) = some i := by
  unfold decodeRow
  by_cases hop : opField w = 0b000000#6
  · cases hd : decodeFunct (functField w) (rsField w) (rtField w) (rdField w) (shamtField w) <;> simp [hop]
  · cases hd : decodeOp (opField w) (rsField w) (rtField w) (imm16Field w) (imm26Field w) <;> simp [hop]

/-- What STRICT_NA adds to the reading of a row (R80, R82). -/
theorem decode_ok {strictNa : Bool} {w : Word} {i : Instr} :
    decode strictNa w = .ok i ↔ decodeRow w = .ok i ∧ i.wellFormed strictNa = true := by
  unfold decode
  cases hrow : decodeRow w with
  | error e => simp
  | ok j =>
    by_cases hj : j.wellFormed strictNa = true
    · simp only [hj, if_true, Except.ok.injEq]
      exact ⟨fun h => ⟨h, h ▸ hj⟩, And.left⟩
    · simp only [hj, Except.ok.injEq]
      exact ⟨nofun, fun ⟨h, hi⟩ => absurd (h ▸ hi) hj⟩

theorem decode_false (w : Word) : decode false w = decodeRow w := by
  cases hrow : decodeRow w <;> simp [decode, hrow, Instr.wellFormed]

/-- A word is an instruction exactly where its codes are listed. -/
theorem exists_decodeRow_iff {w : Word} :
    (∃ i, decodeRow w = .ok i) ↔
      ListedOp (opField w) ∨ opField w = 0b000000#6 ∧ ListedFunct (functField w) := by
  simp only [decodeRow_ok, exists_or, exists_and_left, exists_decodeFunct_iff, exists_decodeOp_iff]
  by_cases hop : opField w = 0b000000#6 <;> simp [hop]

theorem encode_of_decodeFunct {funct : BitVec 6} {rs rt rd : RegNum} {shamt : Shamt} {i : Instr}
    (h : decodeFunct funct rs rt rd shamt = some i) : encode i = rType rs rt rd shamt funct := by
  unfold decodeFunct at h
  split at h
  case h_15 => cases h
  all_goals
    rename_i hcode
    obtain rfl := Option.some.inj h
    exact congrArg (rType rs rt rd shamt) (BitVec.eq_of_toNat_eq hcode.symm)

theorem encode_of_decodeOp {op : BitVec 6} {rs rt : RegNum} {imm16 : Imm16} {imm26 : Imm26} {i : Instr}
    (h : decodeOp op rs rt imm16 imm26 = some i) : encode i = jType op imm26 ∨ encode i = iType op rs rt imm16 := by
  unfold decodeOp at h
  split at h
  case h_14 => cases h
  case h_1 hcode | h_2 hcode =>
    obtain rfl := Option.some.inj h
    exact .inl (congrArg (jType · imm26) (BitVec.eq_of_toNat_eq (x := BitVec.ofNat 6 _) hcode.symm))
  all_goals
    rename_i hcode
    obtain rfl := Option.some.inj h
    exact .inr (congrArg (iType · rs rt imm16) (BitVec.eq_of_toNat_eq (x := BitVec.ofNat 6 _) hcode.symm))

/-- The instruction of a word encodes to that word, every bit kept. -/
theorem encode_of_decodeRow {w : Word} {i : Instr} (h : decodeRow w = .ok i) : encode i = w := by
  rcases decodeRow_ok.1 h with ⟨hop, hi⟩ | ⟨-, hi⟩
  · exact (encode_of_decodeFunct hi).trans (rType_fields hop)
  · rcases encode_of_decodeOp hi with henc | henc
    · exact henc.trans (jType_fields w)
    · exact henc.trans (iType_fields w)

/-! ### The rows of Figure 3 (R79) -/

theorem row_mem_figure3 (i : Instr) : i.row ∈ figure3 := by
  cases i <;> simp [figure3, Instr.row]

/-- The word of an instruction matches its row. -/
theorem encode_and_row_mask (i : Instr) : encode i &&& i.row.mask = i.row.matchBits := by
  cases i
  case j | jal => exact Laws.jType_and_mask _ _
  case jalr | add | sub | sll | srl | sra | sllv | srlv | srav | slt | sltu | xor | or | and =>
    exact Laws.rType_and_mask _ _ _ _ _
  all_goals exact Laws.iType_and_mask _ _ _ _

/-- A word that decodes matches the row of its instruction. -/
theorem and_row_mask_of_decodeRow {w : Word} {i : Instr} (h : decodeRow w = .ok i) :
    w &&& i.row.mask = i.row.matchBits :=
  encode_of_decodeRow h ▸ encode_and_row_mask i

/-- Every row fixes `op` at a listed code, or `op` at 000000 and `funct` at a listed code. -/
theorem figure3_codes : ∀ r ∈ figure3, opField r.mask = 0b111111#6 ∧
    (ListedOp (opField r.matchBits) ∨
      opField r.matchBits = 0b000000#6 ∧ functField r.mask = 0b111111#6 ∧ ListedFunct (functField r.matchBits)) := by
  decide

/-- Two rows that agree on every bit both of them fix are the same row. -/
theorem figure3_disjoint : ∀ r ∈ figure3, ∀ q ∈ figure3, r.matchBits &&& q.mask = q.matchBits &&& r.mask → r = q := by
  decide

/-- A field that a mask keeps whole has the value the fixed bits give it. -/
theorem field_eq_of_and_eq {w mask fixed : Word} {start len : Nat} (h : w &&& mask = fixed)
    (hmask : mask.extractLsb' start len = BitVec.allOnes len) :
    w.extractLsb' start len = fixed.extractLsb' start len := by
  rw [← h, BitVec.extractLsb'_and, hmask, BitVec.and_allOnes]

/-- A word that matches a row of Figure 3 decodes. -/
theorem exists_decodeRow_of_matches {w : Word} {r : Row} (hr : r ∈ figure3) (h : w &&& r.mask = r.matchBits) :
    ∃ i, decodeRow w = .ok i := by
  obtain ⟨hopMask, hcodes⟩ := figure3_codes r hr
  have hop : opField w = opField r.matchBits := field_eq_of_and_eq h hopMask
  refine exists_decodeRow_iff.2 (hcodes.imp (fun hlisted => hop ▸ hlisted) fun ⟨hzero, hfunctMask, hlisted⟩ => ?_)
  have hfunct : functField w = functField r.matchBits := field_eq_of_and_eq h hfunctMask
  exact ⟨hop.trans hzero, hfunct ▸ hlisted⟩

/-- Rows that one word matches are the same row: both fix the bits of that word. -/
theorem row_eq_of_matches {w : Word} {r q : Row} (hr : r ∈ figure3) (hq : q ∈ figure3)
    (hwr : w &&& r.mask = r.matchBits) (hwq : w &&& q.mask = q.matchBits) : r = q := by
  refine figure3_disjoint r hr q hq ?_
  rw [← hwr, ← hwq, BitVec.and_assoc, BitVec.and_assoc, BitVec.and_comm r.mask]

/-! ### The strict masks (R79, R80) -/

/-- Two words laid out from parts of the same widths are equal exactly where the parts are. -/
theorem append_eq_append_iff {m n : Nat} {x x' : BitVec m} {y y' : BitVec n} :
    x ++ y = x' ++ y' ↔ x = x' ∧ y = y' := by
  refine ⟨fun h => ⟨?_, ?_⟩, by rintro ⟨rfl, rfl⟩; rfl⟩
  · simpa only [BitVec.extractLsb'_append_eq_left] using congrArg (BitVec.extractLsb' n m) h
  · simpa only [BitVec.extractLsb'_append_eq_right] using congrArg (BitVec.extractLsb' 0 n) h

/-- A mask gives the fixed bits of an R-type word exactly where it clears every field but `funct`. -/
theorem rType_and_eq_iff {rs rt rd mrs mrt mrd : RegNum} {shamt mshamt : Shamt} {funct mop mfunct : BitVec 6} :
    rType rs rt rd shamt funct &&& (mop ++ mrs ++ mrt ++ mrd ++ mshamt ++ mfunct) = rType 0#5 0#5 0#5 0#5 funct ↔
      rs &&& mrs = 0#5 ∧ rt &&& mrt = 0#5 ∧ rd &&& mrd = 0#5 ∧ shamt &&& mshamt = 0#5 ∧ funct &&& mfunct = funct := by
  unfold rType
  change (_ : BitVec (6 + 5 + 5 + 5 + 5 + 6)) &&& _ = _ ↔ _
  simp only [BitVec.and_append, BitVec.zero_and, append_eq_append_iff, true_and, and_assoc]

/-- The same for an I-type word and its `op`. -/
theorem iType_and_eq_iff {op mop : BitVec 6} {rs rt mrs mrt : RegNum} {imm16 mimm : Imm16} :
    iType op rs rt imm16 &&& (mop ++ mrs ++ mrt ++ mimm) = iType op 0#5 0#5 0#16 ↔
      op &&& mop = op ∧ rs &&& mrs = 0#5 ∧ rt &&& mrt = 0#5 ∧ imm16 &&& mimm = 0#16 := by
  unfold iType
  change (_ : BitVec (6 + 5 + 5 + 16)) &&& _ = _ ↔ _
  simp only [BitVec.and_append, append_eq_append_iff, and_assoc]

/-- The strict mask of the rows whose `shamt` is N/A. -/
theorem rType_strict_shamt (rs rt rd : RegNum) (shamt : Shamt) (funct : BitVec 6) :
    rType rs rt rd shamt funct &&& 0xFC0007FF#32 = rType 0#5 0#5 0#5 0#5 funct ↔ shamt = 0#5 := by
  rw [show 0xFC0007FF#32 = BitVec.allOnes 6 ++ 0#5 ++ 0#5 ++ 0#5 ++ BitVec.allOnes 5 ++ BitVec.allOnes 6 from rfl,
    rType_and_eq_iff]
  simp only [BitVec.and_allOnes, BitVec.and_zero, true_and, and_true]

/-- The strict mask of JALR, whose `rt` and `shamt` are N/A. -/
theorem rType_strict_rt_shamt (rs rt rd : RegNum) (shamt : Shamt) (funct : BitVec 6) :
    rType rs rt rd shamt funct &&& 0xFC1F07FF#32 = rType 0#5 0#5 0#5 0#5 funct ↔ rt = 0#5 ∧ shamt = 0#5 := by
  rw [show 0xFC1F07FF#32 =
      BitVec.allOnes 6 ++ 0#5 ++ BitVec.allOnes 5 ++ 0#5 ++ BitVec.allOnes 5 ++ BitVec.allOnes 6 from rfl,
    rType_and_eq_iff]
  simp only [BitVec.and_allOnes, BitVec.and_zero, true_and, and_true]

/-- The strict mask of the shifts by a constant, whose `rs` is N/A. -/
theorem rType_strict_rs (rs rt rd : RegNum) (shamt : Shamt) (funct : BitVec 6) :
    rType rs rt rd shamt funct &&& 0xFFE0003F#32 = rType 0#5 0#5 0#5 0#5 funct ↔ rs = 0#5 := by
  rw [show 0xFFE0003F#32 = BitVec.allOnes 6 ++ BitVec.allOnes 5 ++ 0#5 ++ 0#5 ++ 0#5 ++ BitVec.allOnes 6 from rfl,
    rType_and_eq_iff]
  simp only [BitVec.and_allOnes, BitVec.and_zero, and_true]

/-- The strict mask of LUI, whose `rs` is N/A. -/
theorem iType_strict_rs (op : BitVec 6) (rs rt : RegNum) (imm16 : Imm16) :
    iType op rs rt imm16 &&& 0xFFE00000#32 = iType op 0#5 0#5 0#16 ↔ rs = 0#5 := by
  rw [show 0xFFE00000#32 = BitVec.allOnes 6 ++ BitVec.allOnes 5 ++ 0#5 ++ 0#16 from rfl, iType_and_eq_iff]
  simp only [BitVec.and_allOnes, BitVec.and_zero, true_and, and_true]

/-- The strict mask of an instruction's row gives the row's fixed bits exactly where the N/A fields are zero. -/
theorem encode_and_strictMask_iff (i : Instr) :
    encode i &&& i.row.strictMask = i.row.matchBits ↔ i.naFieldsZero = true := by
  cases i
  case jalr rs rt rd shamt =>
    exact (rType_strict_rt_shamt rs rt rd shamt _).trans (by simp [Instr.naFieldsZero])
  case lui rs rt imm16 => exact (iType_strict_rs _ rs rt imm16).trans beq_iff_eq.symm
  case sll rs rt rd shamt | srl rs rt rd shamt | sra rs rt rd shamt =>
    exact (rType_strict_rs rs rt rd shamt _).trans beq_iff_eq.symm
  case j | jal | beq | lw | sw | addi | addiu | slti | sltiu | xori | ori | andi =>
    exact iff_of_true (encode_and_row_mask _) rfl
  all_goals exact (rType_strict_shamt _ _ _ _ _).trans beq_iff_eq.symm

end Sys2Proof
end

-- ==== Encoding: the constants and fields an assembler stores ====
section
/-! PROOFS. Rules about the assembler's constants and fields that the statements of 30_encoding.md need: the halves of
`li`, and what R100 and R110 make of the field stored for a label. -/

namespace Sys2Proof.Machine

/-! ### The two halves of a constant (R86) -/

theorem readReg_writeReg_self {s : State} {d : RegNum} {v : Word} (h : d ≠ 0#5) : (s.writeReg d v).readReg d = v := by
  rw [readReg_writeReg, if_neg h, if_pos rfl]

/-- The halves `li` loads make its constant: the upper one shifted up by LUI, the lower one set by ORI. -/
theorem upperImmediate_or_zext32 (imm : Word) :
    upperImmediate (imm.extractLsb' 16 16) ||| zext32 (imm.extractLsb' 0 16) = imm := by
  have hlow : zext32 (imm.extractLsb' 0 16) = 0x0000#16 ++ imm.extractLsb' 0 16 :=
    BitVec.setWidth_eq_append (by decide)
  calc upperImmediate (imm.extractLsb' 16 16) ||| zext32 (imm.extractLsb' 0 16)
      = (imm.extractLsb' 16 16 ++ 0x0000#16 ||| 0x0000#16 ++ imm.extractLsb' 0 16 : BitVec (16 + 16)) := by
        rw [hlow]; rfl
    _ = imm.extractLsb' 16 16 ++ imm.extractLsb' 0 16 := by rw [BitVec.or_append, BitVec.or_zero, BitVec.zero_or]
    _ = imm := BitVec.extractLsb'_append_extractLsb'

theorem append_zero_toNat {m n : Nat} (x : BitVec m) : (x ++ 0#n).toNat = x.toNat * 2 ^ n := by
  simp [BitVec.toNat_append, Nat.shiftLeft_eq]

/-- The upper half of a word, shifted up, is the word with its low half cleared. -/
theorem upperImmediate_toNat (imm : Word) :
    (upperImmediate (imm.extractLsb' 16 16)).toNat = imm.toNat / 2 ^ 16 * 2 ^ 16 := by
  have hshift : (upperImmediate (imm.extractLsb' 16 16)).toNat = (imm.extractLsb' 16 16).toNat * 2 ^ 16 :=
    append_zero_toNat _
  rw [hshift, BitVec.extractLsb'_toNat, Nat.shiftRight_eq_div_pow]
  omega

/-! ### The field of a label (R85, R100, R110) -/

theorem transferBase_eq_targetBase (s : State) : transferBase s = targetBase s.cfg s.pc := by
  cases h : s.cfg.iPcOffset <;> simp [transferBase, targetBase, pcOffsetValue, h]

/-- Within the 256 MiB region of the base, a word-aligned label is what R100 makes of its field. -/
theorem jumpTarget_jumpField {cfg : Config} {pc label : Word} (haligned : label.toNat % 4 = 0)
    (hregion : label.toNat / 2 ^ 28 = (targetBase cfg pc).toNat / 2 ^ 28) :
    jumpTarget cfg pc (jumpField label) = label := by
  have hhigh : (targetBase cfg pc).extractLsb' 28 4 = label.extractLsb' 28 4 := by
    apply BitVec.eq_of_toNat_eq
    simp only [BitVec.extractLsb'_toNat, Nat.shiftRight_eq_div_pow, hregion]
  have hlow : 0b00#2 = label.extractLsb' 0 2 := by
    apply BitVec.eq_of_toNat_eq
    simp [haligned]
  rw [jumpTarget, jumpField, hhigh, hlow]
  simp (disch := decide) only [BitVec.extractLsb'_append_extractLsb'_eq_extractLsb', BitVec.extractLsb'_eq_self]

/-- Bits 17:2 of a displacement of `d` words are `d`. -/
theorem extractLsb'_ofInt_four_mul (d : Int) : (BitVec.ofInt 32 (4 * d)).extractLsb' 2 16 = BitVec.ofInt 16 d := by
  apply BitVec.eq_of_toNat_eq
  simp only [BitVec.extractLsb'_toNat, BitVec.toNat_ofInt, Nat.shiftRight_eq_div_pow]
  omega

/-- The sign extension keeps a displacement of 16 bits. -/
theorem sext32_ofInt {d : Int} (hlo : -32768 ≤ d) (hhi : d ≤ 32767) :
    sext32 (BitVec.ofInt 16 d) = BitVec.ofInt 32 d := by
  rw [sext32, BitVec.signExtend, BitVec.toInt_ofInt_eq_self (by decide) (by omega) (by omega)]

theorem ofInt_shiftLeft_two (d : Int) : BitVec.ofInt 32 d <<< 2 = BitVec.ofInt 32 (4 * d) := by
  apply BitVec.eq_of_toNat_eq
  simp only [BitVec.toNat_shiftLeft, BitVec.toNat_ofInt, Nat.shiftLeft_eq]
  omega

/-- Within the reach of 16 bits, a label a whole number of words from the base is what R110 makes of its field. -/
theorem branchTarget_branchField {cfg : Config} {pc : Word} {d : Int} (hlo : -32768 ≤ d) (hhi : d ≤ 32767) :
    branchTarget cfg pc (branchField cfg pc (targetBase cfg pc + BitVec.ofInt 32 (4 * d))) =
      targetBase cfg pc + BitVec.ofInt 32 (4 * d) := by
  rw [branchTarget, branchField, add_sub_cancel_left, extractLsb'_ofInt_four_mul, sext32_ofInt hlo hhi,
    ofInt_shiftLeft_two]

theorem execBeq_of_eq {s : State} {rs rt : RegNum} (imm16 : Imm16) (h : s.readReg rs = s.readReg rt) :
    execBeq rs rt imm16 s = .next (s.setPc (branchTarget s.cfg s.pc imm16)) :=
  if_pos h

end Sys2Proof.Machine
end

-- ==== The statements of 30_encoding.md ====
section

namespace Sys2Proof.Proofs

open Sys2Proof.Machine

/-- Settles O3: under STRICT_NA = false the decoder looks at no more than the codes (`exists_decodeRow_iff`). -/
theorem decodeFailsExactlyOutsideFigure3 : Obligations.DecodeFailsExactlyOutsideFigure3 := by
  intro w
  have hzero : opField w = 0b000000#6 ↔ (opField w).toNat = 0 := BitVec.toNat_eq
  rw [decode_false, exists_decodeRow_iff, hzero]
  rfl

/-- Settles O4: a word that matches a row decodes, and its instruction's row is the only one it can match. -/
theorem decodeSelectsTheMatchingRow : Obligations.DecodeSelectsTheMatchingRow := by
  refine ⟨rfl, row_mem_figure3, fun w r hr => ⟨fun hmatch => ?_, ?_⟩, fun w r q hr hq => row_eq_of_matches hr hq⟩
  · obtain ⟨i, hdec⟩ := exists_decodeRow_of_matches hr hmatch
    exact ⟨i, (decode_false w).trans hdec,
      row_eq_of_matches (row_mem_figure3 i) hr (and_row_mask_of_decodeRow hdec) hmatch⟩
  · rintro ⟨i, hdec, rfl⟩
    exact and_row_mask_of_decodeRow ((decode_false w).symm.trans hdec)

/-- Settles O5: STRICT_NA = true asks for zeros in the N/A fields, and so does the strict mask of the encoded word. -/
theorem strictNaAddsTheStrictMask : Obligations.StrictNaAddsTheStrictMask := by
  intro w i
  rw [decode_ok, decode_false]
  refine and_congr_right fun hdec => ?_
  rw [← encode_of_decodeRow hdec, encode_and_strictMask_iff]
  rfl

/-- Settles O43: LUI puts the upper half in register 8, ORI joins the lower half to it in `rt`. -/
theorem liLoadsItsConstant : Obligations.LiLoadsItsConstant := by
  intro cfg pc imm rt s hrt
  refine ⟨_, _, _, _, rfl, rfl, rfl, ?_, fun hrt8 => ?_, fun r hr hr8 => ?_, ?_, fun a => rfl, fun a => rfl, rfl⟩
  · simpa [readReg_writeReg_self, hrt] using upperImmediate_or_zext32 imm
  · simpa [readReg_writeReg_self, readReg_writeReg_of_ne (Ne.symm hrt8)] using upperImmediate_toNat imm
  · simp [readReg_writeReg_of_ne, hr, hr8]
  · simp [BitVec.add_assoc]

/-- Settles O44: R100 and R110 undo the fields of R85 within their reach. -/
theorem assembledTransfersReachTheirLabel : Obligations.AssembledTransfersReachTheirLabel := by
  intro s label
  refine ⟨fun haligned hregion => ?_, fun rs rt d heq hlo hhi hlabel => ?_⟩
  · have htarget := jumpTarget_jumpField haligned (transferBase_eq_targetBase s ▸ hregion)
    exact ⟨_, _, _, _, rfl, rfl, htarget, rfl, rfl, htarget⟩
  · rw [BitVec.ofInt_add, BitVec.ofInt_toInt, transferBase_eq_targetBase] at hlabel
    subst hlabel
    exact ⟨_, _, rfl, execBeq_of_eq _ heq, branchTarget_branchField hlo hhi⟩

end Sys2Proof.Proofs
end

-- ==== Jumps: the fields of a word, the target and the outcome of a transfer ====
section
/-! PROOFS. Rules that the statements of 41_jumps.md need: an encoded word as the join of its shifted fields, the value of a
jump target, what a transfer leaves behind, and the stop of a fetch at an address that is no multiple of 4. -/

namespace Sys2Proof

/-! ### A word is the join of its shifted fields (R72, R74) -/

/-- Extended to any width, a juxtaposition is its high part shifted past its low part, joined with the low part. -/
theorem setWidth_append_eq_or {m n : Nat} (k : Nat) (x : BitVec m) (y : BitVec n) :
    (x ++ y).setWidth k = x.setWidth k <<< n ||| y.setWidth k := by
  apply BitVec.eq_of_getLsbD_eq
  intro i hi
  simp only [BitVec.getLsbD_setWidth, BitVec.getLsbD_append, BitVec.getLsbD_or, BitVec.getLsbD_shiftLeft, hi,
    decide_true, Bool.true_and]
  by_cases hlow : i < n
  · simp [hlow]
  · have hsub : i - n < k := by omega
    simp [hlow, hsub, BitVec.getLsbD_of_ge y i (Nat.le_of_not_lt hlow)]

theorem jType_eq_or (op : BitVec 6) (imm26 : Imm26) :
    jType op imm26 = op.setWidth 32 <<< 26 ||| imm26.setWidth 32 :=
  (BitVec.setWidth_eq (jType op imm26)).symm.trans (setWidth_append_eq_or 32 op imm26)

theorem rType_eq_or (rs rt rd : RegNum) (shamt : Shamt) (funct : BitVec 6) :
    rType rs rt rd shamt funct = rs.setWidth 32 <<< 21 ||| rt.setWidth 32 <<< 16 ||| rd.setWidth 32 <<< 11 |||
      shamt.setWidth 32 <<< 6 ||| funct.setWidth 32 := by
  rw [← BitVec.setWidth_eq (rType rs rt rd shamt funct), rType]
  simp only [setWidth_append_eq_or, BitVec.shiftLeft_or_distrib, ← BitVec.shiftLeft_add, BitVec.setWidth_zero,
    BitVec.zero_shiftLeft, BitVec.zero_or]

end Sys2Proof

namespace Sys2Proof.Machine

/-! ### The target of a jump (R100) -/

/-- R100 as a number: the base rounded down to its 256 MiB region, and the field counted in words from there. -/
theorem jumpTarget_toNat (s : State) (imm26 : Imm26) :
    (jumpTarget s.cfg s.pc imm26).toNat = (transferBase s).toNat / 2 ^ 28 * 2 ^ 28 + 4 * imm26.toNat := by
  have hhigh : ((transferBase s).extractLsb' 28 4).toNat = (transferBase s).toNat / 2 ^ 28 := by
    rw [BitVec.extractLsb'_toNat, Nat.shiftRight_eq_div_pow]
    omega
  have hwords : ((transferBase s).extractLsb' 28 4 ++ imm26).toNat =
      (transferBase s).toNat / 2 ^ 28 * 2 ^ 26 + imm26.toNat := by
    rw [BitVec.toNat_append, ← Nat.shiftLeft_add_eq_or_of_lt imm26.isLt, Nat.shiftLeft_eq, hhigh]
  rw [jumpTarget, ← transferBase_eq_targetBase, append_zero_toNat, hwords]
  omega

/-! ### The outcome of a transfer -/

/-- Setting pc changes nothing else. -/
theorem pcResult_setPc (s : State) (p : Word) : PcResult s (s.setPc p) p :=
  ⟨fun _ => rfl, rfl, fun _ => rfl, fun _ => rfl, rfl⟩

/-- Writing a register and setting pc changes nothing else. -/
theorem registerResult_writeReg_setPc (s : State) (d : RegNum) (v p : Word) :
    RegisterResult s ((s.writeReg d v).setPc p) d v p :=
  ⟨fun r => readReg_writeReg s d r v, rfl, fun _ => rfl, fun _ => rfl, rfl⟩

/-! ### A fetch at an address that is no multiple of 4 (R33) -/

theorem step_of_misaligned_pc {s : State} (h : misaligned s.pc = true) : step s = .fault (.misalignedFetch s.pc) := by
  have hfetch : s.fetchWord s.pc = .error (.misalignedFetch s.pc) := if_pos h
  simp [step, State.fetchInstr, hfetch]

end Sys2Proof.Machine
end

-- ==== The statements of 41_jumps.md ====
section

namespace Sys2Proof.Proofs

open Sys2Proof.Machine

/-- Settles O26: J sets pc alone, to the target whose value is `jumpTarget_toNat`. -/
theorem jumpSetsPc : Obligations.JumpSetsPc := by
  intro imm26 s
  exact ⟨jType_eq_or 0b000010#6 imm26, _, _, rfl, pcResult_setPc s _, jumpTarget_toNat s imm26⟩

/-- Settles O27: JAL is J after a write of the link to register 31. -/
theorem jumpAndLinkSetsPcAndLink : Obligations.JumpAndLinkSetsPcAndLink := by
  intro imm26 s
  exact ⟨jType_eq_or 0b000011#6 imm26, _, _, rfl, registerResult_writeReg_setPc s _ _ _, jumpTarget_toNat s imm26⟩

/-- Settles O28: the target is read in the state before the link is written, and the next fetch is at that target. -/
theorem jumpAndLinkRegisterUsesOldTarget : Obligations.JumpAndLinkRegisterUsesOldTarget := by
  intro rs rt rd shamt s
  refine ⟨?_, _, rfl, registerResult_writeReg_setPc s rd _ _, fun hmis => ?_⟩
  · exact (rType_eq_or rs 0#5 rd 0#5 0b001001#6).trans (by simp)
  · exact step_of_misaligned_pc (bne_iff_ne.2 hmis)

end Sys2Proof.Proofs
end

-- ==== Branches: the fields of a word, the target and both outcomes ====
section
/-! PROOFS. Rules that the statements of 42_branches.md need: an encoded I-type word as the join of its shifted fields, the
value of a branch target, and the two outcomes of BEQ as one pc. -/

namespace Sys2Proof

/-! ### An I-type word is the join of its shifted fields (R73) -/

theorem iType_eq_or (op : BitVec 6) (rs rt : RegNum) (imm16 : Imm16) :
    iType op rs rt imm16 =
      op.setWidth 32 <<< 26 ||| rs.setWidth 32 <<< 21 ||| rt.setWidth 32 <<< 16 ||| imm16.setWidth 32 := by
  rw [← BitVec.setWidth_eq (iType op rs rt imm16), iType]
  simp only [setWidth_append_eq_or, BitVec.shiftLeft_or_distrib, ← BitVec.shiftLeft_add]

end Sys2Proof

namespace Sys2Proof.Machine

/-! ### The target of a branch (R110) -/

/-- The sign-extended immediate, shifted up by two, is its signed value counted in words. -/
theorem sext32_shiftLeft_two (imm16 : Imm16) : sext32 imm16 <<< 2 = BitVec.ofInt 32 (4 * imm16.toInt) :=
  ofInt_shiftLeft_two imm16.toInt

/-- R110 as a number: the base and, counted in words from there, the signed immediate, modulo 2^32. -/
theorem branchTarget_eq_ofInt (s : State) (imm16 : Imm16) :
    branchTarget s.cfg s.pc imm16 = BitVec.ofInt 32 ((transferBase s).toInt + 4 * imm16.toInt) := by
  rw [branchTarget, ← transferBase_eq_targetBase, sext32_shiftLeft_two, BitVec.ofInt_add, BitVec.ofInt_toInt]

/-! ### The outcome of BEQ (R111) -/

/-- Both arms of BEQ set pc alone. -/
theorem execBeq_eq_setPc (rs rt : RegNum) (imm16 : Imm16) (s : State) :
    execBeq rs rt imm16 s =
      .next (s.setPc (if s.readReg rs = s.readReg rt then branchTarget s.cfg s.pc imm16 else s.pc + 4#32)) := by
  by_cases heq : s.readReg rs = s.readReg rt
  · rw [execBeq_of_eq imm16 heq, if_pos heq]
  · rw [execBeq_of_ne imm16 heq, if_neg heq]
    rfl

end Sys2Proof.Machine
end

-- ==== The statements of 42_branches.md ====
section

namespace Sys2Proof.Proofs

open Sys2Proof.Machine

/-- Settles O29: BEQ sets pc alone, in the taken arm to the target whose value is `branchTarget_eq_ofInt`. -/
theorem branchOnEqualSetsPc : Obligations.BranchOnEqualSetsPc := by
  intro rs rt imm16 s
  rw [← branchTarget_eq_ofInt]
  exact ⟨iType_eq_or 0b000100#6 rs rt imm16, _, execBeq_eq_setPc rs rt imm16 s, pcResult_setPc s _⟩

end Sys2Proof.Proofs
end

-- ==== Loads and stores: the effective address and the outcomes of LW and SW ====
section
/-! PROOFS. Rules that the statements of 43_loadstore.md need: the value of the effective address, where a data access is
stopped, what an instruction that ends in a register write leaves behind, and the outcomes of LW and SW by the outcome of
their access. -/

namespace Sys2Proof.Machine

/-! ### Addresses (R50, R120) -/

/-- R120 as a number: the base and the signed immediate, modulo 2^32. -/
theorem effectiveAddress_eq_ofInt (base : Word) (imm16 : Imm16) :
    effectiveAddress base imm16 = BitVec.ofInt 32 (base.toInt + imm16.toInt) := by
  rw [BitVec.ofInt_add, BitVec.ofInt_toInt]
  rfl

/-- Where a data access at an address raises MisalignedData. -/
theorem dataMisaligned_eq_true {s : State} {a : Word} :
    s.dataMisaligned a = true ↔ a.extractLsb' 0 2 ≠ 0b00#2 ∧ s.cfg.misalignedData = .fault := by
  simp [State.dataMisaligned, misaligned]

/-! ### The end of a register instruction (R26) -/

/-- An instruction that ends in a register write changes nothing beside that register and pc. -/
theorem writesRegister_of_exec_eq_writeBack {i : Instr} {s : State} {d : RegNum} {v : Word}
    (h : exec i s = s.writeBack d v) : WritesRegister i s d v :=
  ⟨_, h, registerResult_writeReg_setPc s d v _⟩

/-! ### The outcomes of LW and SW (R121, R122) -/

/-- LW ends in a write of the word its memory read gives. -/
theorem execLw_of_memRead_ok {s : State} {rs rt : RegNum} {imm16 : Imm16} {v : Word}
    (h : s.memRead (effectiveAddress (s.readReg rs) imm16) = .ok v) : execLw rs rt imm16 s = s.writeBack rt v := by
  rw [execLw, h]

/-- SW completes where its access is not stopped. -/
theorem execSw_of_not_dataMisaligned {s : State} {rs : RegNum} (rt : RegNum) {imm16 : Imm16}
    (h : s.dataMisaligned (effectiveAddress (s.readReg rs) imm16) = false) :
    execSw rs rt imm16 s = .next (s.setDmem (writeWord s.cfg.endian s.dmem
      (wordIndex (effectiveAddress (s.readReg rs) imm16)) (s.readReg rt))).advance := by
  rw [execSw, memWrite_ok.2 ⟨h, rfl⟩]

/-- SW stops exactly where its access does. -/
theorem execSw_fault_iff {s : State} {rs rt : RegNum} {imm16 : Imm16} {f : Fault} :
    execSw rs rt imm16 s = .fault f ↔
      s.memWrite (effectiveAddress (s.readReg rs) imm16) (s.readReg rt) = .error f := by
  unfold execSw
  cases s.memWrite (effectiveAddress (s.readReg rs) imm16) (s.readReg rt) <;> simp

end Sys2Proof.Machine
end

-- ==== The statements of 43_loadstore.md ====
section

namespace Sys2Proof.Proofs

open Sys2Proof.Machine

/-- Settles O30: the conditions are those of a memory read that gives `v`, and LW ends in a write of `v`. -/
theorem loadWordResult : Obligations.LoadWordResult := by
  intro rs rt imm16 s v
  refine ⟨iType_eq_or 0b100011#6 rs rt imm16, effectiveAddress_eq_ofInt _ imm16, fun hserved hword => ?_⟩
  have hread : s.memRead (effectiveAddress (s.readReg rs) imm16) = .ok v :=
    memRead_ok.2 ⟨dataMisaligned_eq_false.2 hserved, hword⟩
  exact writesRegister_of_exec_eq_writeBack (execLw_of_memRead_ok hread)

/-- Settles O32: SW leaves the state with one word stored and pc moved on, so `readWord_writeWord` and
`readByte_writeWord` say what the data memory holds. -/
theorem storeWordResult : Obligations.StoreWordResult := by
  intro rs rt imm16 s
  refine ⟨iType_eq_or 0b101011#6 rs rt imm16, fun hserved => ?_⟩
  have hexec := execSw_of_not_dataMisaligned rt (dataMisaligned_eq_false.2 hserved)
  refine ⟨_, hexec, fun r => rfl, rfl, ⟨fun a => rfl, rfl⟩, readWord_of_exec_sw hexec, fun b hb => ?_⟩
  rw [State.advance_dmem, State.setDmem_dmem, readByte_writeWord, if_neg (by omega)]

/-- Settles O31: the two ways a memory read stops (`memRead_error`). -/
theorem loadWordStops : Obligations.LoadWordStops := by
  intro rs rt imm16 s
  refine ⟨fun hmis hfault => ?_, fun hserved hnone hunw => ?_⟩
  · exact execLw_fault_iff.2 (memRead_error.2 (.inl ⟨dataMisaligned_eq_true.2 ⟨hmis, hfault⟩, rfl⟩))
  · exact execLw_fault_iff.2 (memRead_error.2 (.inr ⟨dataMisaligned_eq_false.2 hserved, hnone, hunw, rfl⟩))

/-- Settles O33: the one way a memory write stops (`memWrite_error`). -/
theorem storeWordStops : Obligations.StoreWordStops := by
  intro rs rt imm16 s hmis hfault
  exact execSw_fault_iff.2 (memWrite_error.2 ⟨dataMisaligned_eq_true.2 ⟨hmis, hfault⟩, rfl⟩)

end Sys2Proof.Proofs
end

-- ==== Arithmetic and logic: the fields of a word, the immediates, sums and differences ====
section
/-! PROOFS. Rules that the statements of 44_arith_logic.md need: an encoded R-type word whose shift amount is zero, the
values of the extended immediates, sums and differences of words as those of the numbers they stand for, and which
instructions complete in every state. -/

namespace Sys2Proof

/-! ### An R-type word without a shift amount (R72, R80) -/

theorem rType_zero_shamt_eq_or (rs rt rd : RegNum) (funct : BitVec 6) :
    rType rs rt rd 0#5 funct =
      rs.setWidth 32 <<< 21 ||| rt.setWidth 32 <<< 16 ||| rd.setWidth 32 <<< 11 ||| funct.setWidth 32 := by
  rw [rType_eq_or, BitVec.setWidth_zero, BitVec.zero_shiftLeft, BitVec.or_zero]

end Sys2Proof

namespace Sys2Proof.Machine

/-! ### The immediates (R76, R132) -/

@[simp] theorem toNat_zext32 (imm16 : Imm16) : (zext32 imm16).toNat = imm16.toNat :=
  BitVec.toNat_setWidth_of_le (by decide)

@[simp] theorem toInt_sext32 (imm16 : Imm16) : (sext32 imm16).toInt = imm16.toInt :=
  BitVec.toInt_signExtend_of_le (by decide)

/-- R132 as a number: the immediate counted in units of 2^16. -/
theorem toNat_upperImmediate (imm16 : Imm16) : (upperImmediate imm16).toNat = imm16.toNat * 2 ^ 16 :=
  append_zero_toNat imm16

/-! ### Sums and differences (R131, R135, R136, D10) -/

/-- A sum of words is that of the signed integers they stand for, modulo 2^32. -/
theorem add_eq_ofInt (a b : Word) : a + b = BitVec.ofInt 32 (a.toInt + b.toInt) :=
  BitVec.eq_of_toInt_eq (by rw [BitVec.toInt_add, BitVec.toInt_ofInt])

/-- A difference of words is that of the signed integers they stand for, modulo 2^32. -/
theorem sub_eq_ofInt (a b : Word) : a - b = BitVec.ofInt 32 (a.toInt - b.toInt) :=
  BitVec.eq_of_toInt_eq (by rw [BitVec.toInt_sub, BitVec.toInt_ofInt])

/-- A difference of words is that of the unsigned integers they stand for, 2^32 borrowed, modulo 2^32. -/
theorem toNat_sub_borrow (a b : Word) : (a - b).toNat = (a.toNat + 2 ^ 32 - b.toNat) % 2 ^ 32 := by
  rw [BitVec.toNat_sub]
  omega

/-! ### The outcome of an instruction without a memory access (R172) -/

/-- Every instruction but LW and SW answers a next state. -/
theorem exists_exec_eq_next {i : Instr} (s : State) (hlw : ∀ rs rt imm16, i ≠ .lw rs rt imm16)
    (hsw : ∀ rs rt imm16, i ≠ .sw rs rt imm16) : ∃ t, exec i s = .next t := by
  cases i
  case lw rs rt imm16 => exact absurd rfl (hlw rs rt imm16)
  case sw rs rt imm16 => exact absurd rfl (hsw rs rt imm16)
  case beq rs rt imm16 => exact ⟨_, execBeq_eq_setPc rs rt imm16 s⟩
  all_goals exact ⟨_, rfl⟩

end Sys2Proof.Machine
end

-- ==== The statements of 44_arith_logic.md ====
section

namespace Sys2Proof.Proofs

open Sys2Proof.Machine

/-- Settles O9: LW and SW stop exactly where their access does (`memRead_error`, `memWrite_error`), and no other
instruction has one. -/
theorem onlyDataAccessesStop : Obligations.OnlyDataAccessesStop := by
  intro i s
  cases i
  case lw rs rt imm16 =>
    cases hread : s.memRead (effectiveAddress (s.readReg rs) imm16) with
    | ok v => exact .inl ⟨_, execLw_of_memRead_ok hread⟩
    | error f =>
      have hexec : execLw rs rt imm16 s = .fault f := execLw_fault_iff.2 hread
      obtain ⟨hmis, rfl⟩ | ⟨hserved, hnone, hunw, rfl⟩ := memRead_error.1 hread
      · obtain ⟨hlow, hfault⟩ := dataMisaligned_eq_true.1 hmis
        exact .inr (.inl ⟨rs, rt, imm16, .inl rfl, hlow, hfault, hexec⟩)
      · exact .inr (.inr ⟨rs, rt, imm16, rfl, dataMisaligned_eq_false.1 hserved, hnone, hunw, hexec⟩)
  case sw rs rt imm16 =>
    cases hmis : s.dataMisaligned (effectiveAddress (s.readReg rs) imm16) with
    | false => exact .inl ⟨_, execSw_of_not_dataMisaligned rt hmis⟩
    | true =>
      obtain ⟨hlow, hfault⟩ := dataMisaligned_eq_true.1 hmis
      have hexec := execSw_fault_iff.2 (memWrite_error (v := s.readReg rt).2 ⟨hmis, rfl⟩)
      exact .inr (.inl ⟨rs, rt, imm16, .inr rfl, hlow, hfault, hexec⟩)
  all_goals exact .inl (exists_exec_eq_next s nofun nofun)

/-- Settles O34: the immediate above sixteen zeros (`toNat_upperImmediate`). -/
theorem loadUpperImmediateResult : Obligations.LoadUpperImmediateResult := by
  intro rs rt imm16 cfg pc s
  have hword : encode (.lui 0 rt imm16) = 0x3C000000#32 ||| rt.setWidth 32 <<< 16 ||| imm16.setWidth 32 :=
    (iType_eq_or 0b001111#6 0#5 rt imm16).trans (by simp)
  exact ⟨hword, rfl, _, writesRegister_of_exec_eq_writeBack rfl, toNat_upperImmediate imm16⟩

/-- Settles O35: both sums wrap, the signed one over the sign-extended, the unsigned one over the zero-extended
immediate. -/
theorem addImmediateResults : Obligations.AddImmediateResults := by
  intro rs rt imm16 s
  have hsigned : s.readReg rs + sext32 imm16 = BitVec.ofInt 32 ((s.readReg rs).toInt + imm16.toInt) := by
    rw [add_eq_ofInt, toInt_sext32]
  have hunsigned : s.readReg rs + zext32 imm16 = BitVec.ofNat 32 ((s.readReg rs).toNat + imm16.toNat) := by
    rw [BitVec.add_def, toNat_zext32]
  rw [← hsigned, ← hunsigned]
  exact ⟨iType_eq_or 0b001000#6 rs rt imm16, iType_eq_or 0b001001#6 rs rt imm16,
    writesRegister_of_exec_eq_writeBack rfl, writesRegister_of_exec_eq_writeBack rfl⟩

/-- Settles O36: a sum and a difference of words have the same bits whether the operands are read as signed or as
unsigned. -/
theorem addSubResults : Obligations.AddSubResults := by
  intro rs rt rd shamt s
  exact ⟨rType_zero_shamt_eq_or rs rt rd 0b100000#6, rType_zero_shamt_eq_or rs rt rd 0b100010#6,
    ⟨_, writesRegister_of_exec_eq_writeBack rfl, BitVec.toNat_add _ _, add_eq_ofInt _ _⟩,
    ⟨_, writesRegister_of_exec_eq_writeBack rfl, toNat_sub_borrow _ _, sub_eq_ofInt _ _⟩⟩

/-- Settles O37: a bitwise operation on words is that on their values, and the zero-extended immediate keeps its
(`toNat_zext32`). -/
theorem logicImmediateResults : Obligations.LogicImmediateResults := by
  intro rs rt imm16 cfg pc s
  refine ⟨iType_eq_or 0b001100#6 rs rt imm16, iType_eq_or 0b001101#6 rs rt imm16, iType_eq_or 0b001110#6 rs rt imm16,
    rfl, rfl, rfl, ⟨_, writesRegister_of_exec_eq_writeBack rfl, ?_⟩, ⟨_, writesRegister_of_exec_eq_writeBack rfl, ?_⟩,
    ⟨_, writesRegister_of_exec_eq_writeBack rfl, ?_⟩⟩
  · rw [BitVec.toNat_and, toNat_zext32]
  · rw [BitVec.toNat_or, toNat_zext32]
  · rw [BitVec.toNat_xor, toNat_zext32]

/-- Settles O38: the instruction and the ALU's code name the same operation on words, which acts on each bit alone. -/
theorem logicRegisterResults : Obligations.LogicRegisterResults := by
  intro rs rt rd shamt cfg pc s
  exact ⟨rType_zero_shamt_eq_or rs rt rd 0b100100#6, rType_zero_shamt_eq_or rs rt rd 0b100101#6,
    rType_zero_shamt_eq_or rs rt rd 0b100110#6, rfl, rfl, rfl,
    ⟨_, writesRegister_of_exec_eq_writeBack rfl, fun _ _ _ => rfl, fun _ _ => BitVec.getLsbD_and⟩,
    ⟨_, writesRegister_of_exec_eq_writeBack rfl, fun _ _ _ => rfl, fun _ _ => BitVec.getLsbD_or⟩,
    ⟨_, writesRegister_of_exec_eq_writeBack rfl, fun _ _ _ => rfl, fun _ _ => BitVec.getLsbD_xor⟩⟩

/-- Settles O39: the comparisons are exact on the integers, and each extension keeps the immediate's value. -/
theorem setLessImmediateResults : Obligations.SetLessImmediateResults := by
  intro rs rt imm16 s
  rw [← toInt_sext32, ← toNat_zext32]
  exact ⟨iType_eq_or 0b001010#6 rs rt imm16, iType_eq_or 0b001011#6 rs rt imm16,
    writesRegister_of_exec_eq_writeBack rfl, writesRegister_of_exec_eq_writeBack rfl⟩

/-- Settles O40: the comparisons are exact on the integers, as `setLessSigned` and `setLessUnsigned` say. -/
theorem setLessResults : Obligations.SetLessResults := by
  intro rs rt rd shamt s
  exact ⟨rType_zero_shamt_eq_or rs rt rd 0b101010#6, rType_zero_shamt_eq_or rs rt rd 0b101011#6,
    writesRegister_of_exec_eq_writeBack rfl, writesRegister_of_exec_eq_writeBack rfl⟩

end Sys2Proof.Proofs
end

-- ==== Shifts: the fields of a word, the distance, the values of the results ====
section
/-! PROOFS. Rules that the statements of 45_shifts.md need: an encoded R-type word whose rs is zero, the distance of a
variable shift, the values and the bits of the three shifts, and a left shift as a right shift of the reversed bits. -/

namespace Sys2Proof

/-! ### An R-type word without rs (R72, R80) -/

theorem rType_zero_rs_eq_or (rt rd : RegNum) (shamt : Shamt) (funct : BitVec 6) :
    rType 0#5 rt rd shamt funct =
      rt.setWidth 32 <<< 16 ||| rd.setWidth 32 <<< 11 ||| shamt.setWidth 32 <<< 6 ||| funct.setWidth 32 := by
  rw [rType_eq_or, BitVec.setWidth_zero, BitVec.zero_shiftLeft, BitVec.zero_or]

end Sys2Proof

namespace Sys2Proof.Machine

/-! ### The distance of a variable shift (R160) -/

@[simp] theorem toNat_shiftDistance (v : Word) : (shiftDistance v).toNat = v.toNat % 32 :=
  BitVec.extractLsb'_toNat 0 5 v

/-! ### The values of the three shifts (R160) -/

@[simp] theorem toNat_shiftLeft (v : Word) (s : Shamt) :
    (shiftLeft v s).toNat = v.toNat * 2 ^ s.toNat % 2 ^ 32 := by
  rw [shiftLeft, BitVec.toNat_shiftLeft, Nat.shiftLeft_eq]

@[simp] theorem toNat_shiftRightLogical (v : Word) (s : Shamt) :
    (shiftRightLogical v s).toNat = v.toNat / 2 ^ s.toNat := by
  rw [shiftRightLogical, BitVec.toNat_ushiftRight, Nat.shiftRight_eq_div_pow]

/-- The quotient is rounded toward minus infinity. -/
@[simp] theorem toInt_shiftRightArith (v : Word) (s : Shamt) :
    (shiftRightArith v s).toInt = v.toInt / 2 ^ s.toNat := by
  rw [shiftRightArith, BitVec.toInt_sshiftRight, Int.shiftRight_eq_div_pow, Nat.cast_pow, Nat.cast_ofNat]

/-- Each vacated bit is a copy of bit 31. -/
theorem getLsbD_shiftRightArith (v : Word) (s : Shamt) {n : Nat} (hn : n < 32) :
    (shiftRightArith v s).getLsbD n = if n + s.toNat < 32 then v.getLsbD (n + s.toNat) else v.getLsbD 31 := by
  rw [shiftRightArith, BitVec.getLsbD_sshiftRight, BitVec.msb_eq_getLsbD_last, Nat.add_comm s.toNat n,
    decide_eq_false (Nat.not_le.2 hn), Bool.not_false, Bool.true_and]

/-! ### A left shift from a right shift (R167) -/

/-- Counted from the top, bit `i` of either side is bit `i + s`: reversing makes the top of a word its bottom, where a
shift right takes bits from above. -/
theorem reverse_ushiftRight_reverse {w : Nat} (d : BitVec w) (s : Nat) : (d.reverse >>> s).reverse = d <<< s := by
  refine BitVec.eq_of_getMsbD_eq fun i _ => ?_
  calc (d.reverse >>> s).reverse.getMsbD i
      = (d.reverse >>> s).getLsbD i := BitVec.getMsbD_reverse
    _ = d.reverse.getLsbD (s + i) := BitVec.getLsbD_ushiftRight d.reverse s i
    _ = d.getMsbD (s + i) := BitVec.getLsbD_reverse
    _ = (d <<< s).getMsbD i := by rw [BitVec.getMsbD_shiftLeft, Nat.add_comm]

/-- The shifter built from the right shift alone is the shifter of R200. -/
theorem shifterFromRight_eq_shifter {w n : Nat} (d : BitVec w) (shamt : BitVec n) (arith dir : Bool) :
    shifterFromRight d shamt arith dir = shifter d shamt arith dir := by
  rw [shifterFromRight, shifter, reverse_ushiftRight_reverse]

end Sys2Proof.Machine
end

-- ==== The statements of 45_shifts.md ====
section

namespace Sys2Proof.Proofs

open Sys2Proof.Machine

/-- Settles O41: each shift is a multiplication or a division by a power of two, and SRA fills with bit 31
(`getLsbD_shiftRightArith`). -/
theorem shiftByShamtResults : Obligations.ShiftByShamtResults := by
  intro rs rt rd shamt cfg pc s
  have hsll : encode (.sll 0 rt rd shamt) =
      rt.setWidth 32 <<< 16 ||| rd.setWidth 32 <<< 11 ||| shamt.setWidth 32 <<< 6 :=
    (rType_zero_rs_eq_or rt rd shamt 0b000000#6).trans BitVec.or_zero
  exact ⟨hsll, rType_zero_rs_eq_or rt rd shamt 0b000010#6, rType_zero_rs_eq_or rt rd shamt 0b000011#6, rfl, rfl, rfl,
    ⟨_, writesRegister_of_exec_eq_writeBack rfl, toNat_shiftLeft _ shamt⟩,
    ⟨_, writesRegister_of_exec_eq_writeBack rfl, toNat_shiftRightLogical _ shamt⟩,
    ⟨_, writesRegister_of_exec_eq_writeBack rfl, toInt_shiftRightArith _ shamt,
      fun _ hn => getLsbD_shiftRightArith _ shamt hn⟩⟩

/-- Settles O42: the shifts of O41 by a distance that is x[rs] modulo 32 (`toNat_shiftDistance`). -/
theorem shiftByRegisterResults : Obligations.ShiftByRegisterResults := by
  intro rs rt rd shamt cfg pc s
  rw [← toNat_shiftDistance]
  exact ⟨rType_zero_shamt_eq_or rs rt rd 0b000100#6, rType_zero_shamt_eq_or rs rt rd 0b000110#6,
    rType_zero_shamt_eq_or rs rt rd 0b000111#6, rfl, rfl, rfl,
    ⟨_, writesRegister_of_exec_eq_writeBack rfl, toNat_shiftLeft _ _⟩,
    ⟨_, writesRegister_of_exec_eq_writeBack rfl, toNat_shiftRightLogical _ _⟩,
    ⟨_, writesRegister_of_exec_eq_writeBack rfl, toInt_shiftRightArith _ _,
      fun _ hn => getLsbD_shiftRightArith _ _ hn⟩⟩

/-- Settles O45: R167's identity on bit vectors (`reverse_ushiftRight_reverse`), and the shifter built by it. -/
theorem reversedRightShiftIsLeftShift : Obligations.ReversedRightShiftIsLeftShift := by
  intro w n d shamt arith dir
  exact ⟨reverse_ushiftRight_reverse d shamt.toNat, shifterFromRight_eq_shifter d shamt arith dir⟩

end Sys2Proof.Proofs
end

-- ==== Faults: why an instruction does not start ====
section
/-! PROOFS. Rules that the statements of 60_exceptions.md need: every way a fetch and a decode answer a fault, in the order
of R174, and that the step then answers the same fault. They are the counterparts of `fetchWord_ok`, `decodeAt_ok` and
`fetchInstr_ok`. -/

namespace Sys2Proof.Machine

/-- Every way a fetch at an address gives no word; alignment is checked first. -/
theorem fetchWord_error {s : State} {a : Word} {f : Fault} :
    s.fetchWord a = .error f ↔ misaligned a = true ∧ f = .misalignedFetch a ∨
      misaligned a = false ∧ readWord s.cfg.endian s.imem (wordIndex a) = none ∧ f = .unloadedFetch a := by
  unfold State.fetchWord
  cases hm : misaligned a with
  | true => simp [eq_comm]
  | false => simp [ifetch_error]

/-- The one way a word gives no instruction. -/
theorem decodeAt_error {s : State} {a w : Word} {f : Fault} :
    s.decodeAt a w = .error f ↔ (∀ i, decode s.cfg.strictNa w ≠ .ok i) ∧ f = .illegalInstruction a w := by
  unfold State.decodeAt
  cases hd : decode s.cfg.strictNa w with
  | ok i => simp
  | error e => simp [eq_comm]

/-- Every way a fetch of an instruction gives none: the fetch of the word stops, or its word does not decode. -/
theorem fetchInstr_error {s : State} {a : Word} {f : Fault} :
    s.fetchInstr a = .error f ↔ s.fetchWord a = .error f ∨ ∃ w, s.fetchWord a = .ok w ∧ s.decodeAt a w = .error f := by
  unfold State.fetchInstr
  cases hw : s.fetchWord a with
  | ok w => simp
  | error e => simp

/-- A fault of the fetch or the decode at pc is the step's outcome. -/
theorem step_of_fetchInstr_error {s : State} {f : Fault} (h : s.fetchInstr s.pc = .error f) : step s = .fault f := by
  simp [step, h]

end Sys2Proof.Machine
end

-- ==== The statements of 60_exceptions.md ====
section

namespace Sys2Proof.Proofs

open Sys2Proof.Machine

/-- Settles O8: a case per check, each reached only where the checks before it pass. -/
theorem fetchFaultsInOrder : Obligations.FetchFaultsInOrder := by
  intro s
  refine ⟨fun hmis => ?misaligned, fun hpc hnone => ?unloaded, fun w hpc hw hdec => ?illegal⟩
  case misaligned => exact step_of_misaligned_pc (bne_iff_ne.2 hmis)
  case unloaded =>
    have hfetch : s.fetchWord s.pc = .error (.unloadedFetch s.pc) :=
      fetchWord_error.2 (.inr ⟨misaligned_eq_false.2 hpc, hnone, rfl⟩)
    exact step_of_fetchInstr_error (fetchInstr_error.2 (.inl hfetch))
  case illegal =>
    have hfetch : s.fetchWord s.pc = .ok w := fetchWord_ok.2 ⟨misaligned_eq_false.2 hpc, hw⟩
    have hillegal : s.decodeAt s.pc w = .error (.illegalInstruction s.pc w) := decodeAt_error.2 ⟨hdec, rfl⟩
    exact step_of_fetchInstr_error (fetchInstr_error.2 (.inr ⟨w, hfetch, hillegal⟩))

end Sys2Proof.Proofs
end

-- ==== The modules: ALU, program counter, register bank ====
section
/-! PROOFS. What the modules of R201 to R204 compute, in the terms the instructions' rules use: the ALU's comparisons and
shifts, the PC module's four operations, the register bank's contents and outputs after an edge. -/

namespace Sys2Proof.Machine

/-! ### The ALU (R201, R202) -/

/-- One bit more than the operands holds the signed difference exactly, so that its sign is the comparison. -/
theorem msb_aluDifference_signed (a b : Word) :
    (aluDifference .signed a b).msb = decide (a.toInt < b.toInt) := by
  have ha : (a.signExtend 33).toInt = a.toInt := BitVec.toInt_signExtend_of_le (by decide)
  have hb : (b.signExtend 33).toInt = b.toInt := BitVec.toInt_signExtend_of_le (by decide)
  have hexact : (a.signExtend 33 - b.signExtend 33).toInt = a.toInt - b.toInt := by
    have := @BitVec.two_mul_toInt_lt 32 a
    have := @BitVec.le_two_mul_toInt 32 a
    have := @BitVec.two_mul_toInt_lt 32 b
    have := @BitVec.le_two_mul_toInt 32 b
    rw [BitVec.toInt_sub, ha, hb]
    exact Int.bmod_eq_of_le (by omega) (by omega)
  rw [aluDifference, BitVec.msb_eq_toInt, hexact, decide_eq_decide]
  omega

/-- The same for the unsigned difference: its top bit is the borrow. -/
theorem msb_aluDifference_unsigned (a b : Word) :
    (aluDifference .unsigned a b).msb = decide (a.toNat < b.toNat) := by
  have := a.isLt
  have := b.isLt
  rw [aluDifference, BitVec.msb_eq_decide, BitVec.toNat_sub, BitVec.toNat_setWidth_of_le (by decide),
    BitVec.toNat_setWidth_of_le (by decide), decide_eq_decide]
  omega

theorem alu_slt_signed (arith : Bool) (shamt : Shamt) (a b : Word) :
    alu .slt arith .signed shamt a b = setLessSigned a b := by
  simp [alu, setLessSigned, msb_aluDifference_signed]

theorem alu_slt_unsigned (arith : Bool) (shamt : Shamt) (a b : Word) :
    alu .slt arith .unsigned shamt a b = setLessUnsigned a b := by
  simp [alu, setLessUnsigned, msb_aluDifference_unsigned]

theorem alu_sl (arith : Bool) (sign : AluSign) (shamt : Shamt) (a b : Word) :
    alu .sl arith sign shamt a b = shiftLeft a shamt :=
  reverse_ushiftRight_reverse a shamt.toNat

theorem alu_sr_logical (sign : AluSign) (shamt : Shamt) (a b : Word) :
    alu .sr false sign shamt a b = shiftRightLogical a shamt := rfl

theorem alu_sr_arith (sign : AluSign) (shamt : Shamt) (a b : Word) :
    alu .sr true sign shamt a b = shiftRightArith a shamt := rfl

/-! ### The ALU's result is the instruction's (R202, R208) -/

/-- LUI's result is a left shift by 16 (log 28). -/
theorem shiftLeft_zext32_sixteen (imm16 : Imm16) : shiftLeft (zext32 imm16) 16 = upperImmediate imm16 := by
  refine BitVec.eq_of_toNat_eq ?_
  rw [toNat_shiftLeft, toNat_zext32, toNat_upperImmediate]
  have := imm16.isLt
  exact Nat.mod_eq_of_lt (by simp; omega)

/-- An instruction that takes its result from the ALU ends in a write of what the ALU gives. -/
theorem exec_eq_writeBack_aluOf {i : Instr} {d : RegNum} (s : State) (hdest : destination i = some d)
    (hjal : ∀ imm26, i ≠ .jal imm26) (hjalr : ∀ rs rt rd shamt, i ≠ .jalr rs rt rd shamt)
    (hlw : ∀ rs rt imm16, i ≠ .lw rs rt imm16) :
    exec i s = s.writeBack d (aluOf i (s.readReg (rsOf i)) (s.readReg (rtOf i))) := by
  cases i
  case jal imm26 => exact absurd rfl (hjal imm26)
  case jalr rs rt rd shamt => exact absurd rfl (hjalr rs rt rd shamt)
  case lw rs rt imm16 => exact absurd rfl (hlw rs rt imm16)
  case j | beq | sw => exact absurd hdest nofun
  all_goals obtain rfl := Option.some.inj hdest
  case lui => rw [aluOf, alu_sl, shiftLeft_zext32_sixteen]; rfl
  case sll | sllv => rw [aluOf, alu_sl]; rfl
  case slti | slt => rw [aluOf, alu_slt_signed]; rfl
  case sltiu | sltu => rw [aluOf, alu_slt_unsigned]; rfl
  case addi | addiu | add | sub | andi | ori | xori | and | or | xor | srl | sra | srlv | srav => rfl

/-! ### The program counter (R203) -/

/-- Operation N. -/
theorem pcModule_next (reset target iPc pc : Word) :
    pcModule reset true true .next target iPc pc = pc + 4#32 := rfl

/-- With `i_en` at 0 the value is kept. -/
theorem pcModule_disabled (reset target iPc pc : Word) (op : PcOp) :
    pcModule reset true false op target iPc pc = pc := rfl

/-- Operation J is R100's target for the low 26 bits of `i_target`. -/
theorem pcModule_jump_eq_jumpTarget (cfg : Config) (reset target pc pc' : Word) :
    pcModule reset true true .jump target (targetBase cfg pc) pc' =
      jumpTarget cfg pc (target.extractLsb' 0 26) := rfl

/-- With the field of a J-type instruction extended, that is the instruction's target. -/
theorem pcModule_jump (cfg : Config) (reset pc pc' : Word) (imm26 : Imm26) :
    pcModule reset true true .jump (imm26.setWidth 32) (targetBase cfg pc) pc' = jumpTarget cfg pc imm26 := by
  have hfield : (imm26.setWidth 32).extractLsb' 0 26 = imm26 :=
    (BitVec.extractLsb'_setWidth_of_le (by decide)).trans BitVec.extractLsb'_eq_self
  rw [pcModule_jump_eq_jumpTarget, hfield]

/-- Operation J as a number: any `i_pc` is the base of a machine whose I_PC_OFFSET is 0. -/
theorem toNat_pcModule_jump (reset target iPc pc : Word) :
    (pcModule reset true true .jump target iPc pc).toNat =
      iPc.toNat / 2 ^ 28 * 2 ^ 28 + 4 * (target.toNat % 2 ^ 26) := by
  have hbase : targetBase Config.default iPc = iPc := BitVec.add_zero iPc
  have hfield : (target.extractLsb' 0 26).toNat = target.toNat % 2 ^ 26 := BitVec.extractLsb'_toNat 0 26 target
  calc (pcModule reset true true .jump target iPc pc).toNat
      = (jumpTarget Config.default iPc (target.extractLsb' 0 26)).toNat := by
        rw [← pcModule_jump_eq_jumpTarget _ reset target iPc pc, hbase]
    _ = iPc.toNat / 2 ^ 28 * 2 ^ 28 + 4 * (target.toNat % 2 ^ 26) := by
        rw [← hfield]
        exact jumpTarget_toNat (State.reset.setPc iPc) _

/-- Operation B as a number: a shift left by two counts in words. -/
theorem toNat_pcModule_branch (reset target iPc pc : Word) :
    (pcModule reset true true .branch target iPc pc).toNat = (iPc.toNat + 4 * target.toNat) % 2 ^ 32 := by
  have hwords : (target <<< 2).toNat = 4 * target.toNat % 2 ^ 32 := by
    rw [BitVec.toNat_shiftLeft, Nat.shiftLeft_eq, Nat.mul_comm]
  rw [← Nat.add_mod_mod, ← hwords]
  exact BitVec.toNat_add iPc (target <<< 2)

/-- Every operation but N sets the register without a look at its value. -/
theorem pcModule_of_ne_next {op : PcOp} (h : op ≠ .next) (reset target iPc pc pc' : Word) :
    pcModule reset true true op target iPc pc = pcModule reset true true op target iPc pc' := by
  cases op with
  | next => exact absurd rfl h
  | target | jump | branch => rfl

/-! ### The register bank (R204, R211) -/

/-- Everything an edge of the enabled bank does to a location read. -/
theorem readBank_bankEdge (b : Vector Word 32) (i : BankIn) (h : i.en = true) (r : RegNum) :
    readBank (bankEdge b i).cells r =
      if i.we = true ∧ i.addrW = r ∧ r ≠ 0#5 then i.dataW else readBank b r := by
  rw [bankEdge_cells h]
  cases i.we with
  | false => simp
  | true =>
    rw [if_pos rfl, readBank_writeBank]
    by_cases hr : r = 0#5
    · simp [hr]
    · simp [hr, eq_comm]

/-- A read port of the enabled bank shows the contents after the edge: the write-through bypass. -/
theorem bankPort_eq_readBank (b : Vector Word 32) (i : BankIn) (h : i.en = true) (r : RegNum) :
    bankPort b i r = readBank (bankEdge b i).cells r := by
  simp [bankPort, readBank_bankEdge b i h, and_assoc]

theorem bankEdge_dataRa (b : Vector Word 32) (i : BankIn) (h : i.en = true) :
    (bankEdge b i).dataRa = readBank (bankEdge b i).cells i.addrRa := by
  rw [← bankPort_eq_readBank b i h]
  simp [bankEdge, h]

theorem bankEdge_dataRb (b : Vector Word 32) (i : BankIn) (h : i.en = true) :
    (bankEdge b i).dataRb = readBank (bankEdge b i).cells i.addrRb := by
  rw [← bankPort_eq_readBank b i h]
  simp [bankEdge, h]

end Sys2Proof.Machine
end

-- ==== Stage E: it does what the instruction does ====
section
/-! PROOFS. What stage E answers, read as an outcome of the ISA machine, is the outcome of the instruction (R208, R209). -/

namespace Sys2Proof.Machine

/-! ### What stage E asks for, as an update of the ISA state -/

/-- The state with the result of stage U written. -/
def State.commit (s : State) : Result → State
  | some (d, v) => s.writeReg d v
  | none => s

/-- A result is written whatever pc is. -/
theorem State.setPc_commit_setPc (s : State) (u : Result) (p p' : Word) :
    ((s.setPc p).commit u).setPc p' = (s.commit u).setPc p' := by
  cases u <;> rfl

/-- The pc stage E asks for: the PC module's next value at an instruction whose address is `s.pc` (R203). -/
def Executed.nextPc (x : Executed) (s : State) : Word :=
  pcModule s.cfg.resetPc true true x.pcOp x.target (targetBase s.cfg s.pc) s.pc

/-- The ISA state with all stage E asks for done: the memory access, the result, the pc. -/
def Executed.applyTo (x : Executed) (s : State) : State := ((s.setDmem x.dmem).commit x.result).setPc (x.nextPc s)

/-- What stage E gives at the ISA state `s`, as an outcome of the ISA machine. -/
def State.outcomeOfE (s : State) : Except Fault Executed → Host.Outcome State Fault Refusal
  | .ok x => .next (x.applyTo s)
  | .error f => .fault f

/-! ### The instructions -/

/-- Stage E sees of the state the data memory and the parameters alone. -/
theorem execute_congr {s t : State} (hdmem : t.dmem = s.dmem) (hcfg : t.cfg = s.cfg) (pc : Word) (i : Instr)
    (a b : Word) : execute t pc i a b = execute s pc i a b := by
  cases i
  case lw rs rt imm16 =>
    have hread : t.memRead (aluOf (.lw rs rt imm16) a b) = s.memRead (aluOf (.lw rs rt imm16) a b) :=
      memRead_congr_word (by rw [hcfg]) (by rw [hcfg]) (by rw [hcfg, hdmem])
    simp only [execute, hread, hdmem]
  case sw rs rt imm16 =>
    have hmis := dataMisaligned_congr (s := s) (t := t) (by rw [hcfg]) (aluOf (.sw rs rt imm16) a b)
    simp only [execute, State.memWrite, hmis, hcfg, hdmem]
    cases s.dataMisaligned (aluOf (.sw rs rt imm16) a b) <;> rfl
  all_goals exact congrArg (fun m => Except.ok (Executed.mk m _ _ _)) hdmem

theorem exec_lw_eq_outcomeOfE (rs rt : RegNum) (imm16 : Imm16) (s : State) (b : Word) :
    exec (.lw rs rt imm16) s = s.outcomeOfE (execute s s.pc (.lw rs rt imm16) (s.readReg rs) b) := by
  simp only [exec, execute, aluOf_lw]
  cases hread : s.memRead (effectiveAddress (s.readReg rs) imm16) with
  | ok v => exact execLw_of_memRead_ok hread
  | error f => exact execLw_fault_iff.2 hread

theorem exec_sw_eq_outcomeOfE (rs rt : RegNum) (imm16 : Imm16) (s : State) :
    exec (.sw rs rt imm16) s =
      s.outcomeOfE (execute s s.pc (.sw rs rt imm16) (s.readReg rs) (s.readReg rt)) := by
  simp only [exec, execute, aluOf_sw]
  cases hwrite : s.memWrite (effectiveAddress (s.readReg rs) imm16) (s.readReg rt) with
  | ok t =>
    obtain ⟨hserved, rfl⟩ := memWrite_ok.1 hwrite
    exact execSw_of_not_dataMisaligned rt hserved
  | error f => exact execSw_fault_iff.2 hwrite

theorem exec_beq_eq_outcomeOfE (rs rt : RegNum) (imm16 : Imm16) (s : State) :
    exec (.beq rs rt imm16) s =
      s.outcomeOfE (execute s s.pc (.beq rs rt imm16) (s.readReg rs) (s.readReg rt)) := by
  by_cases heq : s.readReg rs = s.readReg rt
  · simp only [exec, execBeq_of_eq imm16 heq, execute, pcControl, if_pos heq]
    rfl
  · simp only [exec, execBeq_of_ne imm16 heq, execute, pcControl, if_neg heq]
    rfl

/-- The key fact of the refinement: an instruction does what stage E asks for with the registers as operands, and stops
where stage E does. -/
theorem exec_eq_outcomeOfE (i : Instr) (s : State) :
    exec i s = s.outcomeOfE (execute s s.pc i (s.readReg (rsOf i)) (s.readReg (rtOf i))) := by
  cases i
  case j imm26 =>
    exact congrArg (fun p => Host.Outcome.next (s.setPc p)) (pcModule_jump s.cfg _ s.pc s.pc imm26).symm
  case jal imm26 =>
    exact congrArg (fun p => Host.Outcome.next ((s.writeReg 31#5 (linkAddress s.pc)).setPc p))
      (pcModule_jump s.cfg _ s.pc s.pc imm26).symm
  case jalr rs rt rd shamt => rfl
  case beq rs rt imm16 => exact exec_beq_eq_outcomeOfE rs rt imm16 s
  case lw rs rt imm16 => exact exec_lw_eq_outcomeOfE rs rt imm16 s _
  case sw rs rt imm16 => exact exec_sw_eq_outcomeOfE rs rt imm16 s
  all_goals exact exec_eq_writeBack_aluOf s rfl nofun nofun nofun

end Sys2Proof.Machine
end

-- ==== A cycle of the pipeline ====
section
/-! PROOFS. What a cycle leaves in the latches and the PC module, by whether a transfer is taken and whether stages F and D
stall (R195, R203, R206, R210, R213), and from that: a cycle keeps a pipeline coherent and executes what the ISA step
does. -/

namespace Sys2Proof.Machine

/-! ### The latches after a cycle -/

section

variable {p : Pipeline} {c : Signals} {x : Executed}

@[simp] theorem Pipeline.afterE_imem : (p.afterE c x).arch.imem = p.arch.imem := rfl
@[simp] theorem Pipeline.afterE_cfg : (p.afterE c x).arch.cfg = p.arch.cfg := rfl

/-- A taken transfer removes the two younger instructions. -/
theorem Pipeline.afterE_flush (h : x.pcOp ≠ .next) : (p.afterE c x).inD = none ∧ (p.afterE c x).inE = none := by
  simp [afterE, h]

/-- A taken transfer loads the PC, in spite of a stall. -/
theorem Pipeline.afterE_pc_of_taken (h : x.pcOp ≠ .next) :
    (p.afterE c x).arch.pc = pcModule p.arch.cfg.resetPc true true x.pcOp x.target p.iPc p.arch.pc := by
  simp [afterE, bne_iff_ne.2 h]

/-- A stall holds stages F and D and sends a bubble to E. -/
theorem Pipeline.afterE_stall (h : x.pcOp = .next) (hc : c.stall = true) :
    (p.afterE c x).arch.pc = p.arch.pc ∧ (p.afterE c x).inD = p.inD ∧ (p.afterE c x).inE = none := by
  simp [afterE, h, hc, pcModule_disabled]

/-- What stage D hands to stage E: the instruction decoded and the register bank's outputs. -/
def Pipeline.issue (c : Signals) (p : Pipeline) (f : Fetched) : Issued :=
  let bank := bankEdge p.arch.regs (p.bankIn c.rfEn c.rfDraw)
  ⟨f.pc, p.decoded f, bank.dataRa, bank.dataRb⟩

/-- Otherwise every instruction moves on by one stage and the next is fetched. -/
theorem Pipeline.afterE_flow (h : x.pcOp = .next) (hc : c.stall = false) :
    (p.afterE c x).arch.pc = p.arch.pc + 4#32 ∧
    (p.afterE c x).inD = some ⟨p.arch.pc, p.arch.fetchWord p.arch.pc⟩ ∧
    (p.afterE c x).inE = p.inD.map (p.issue c) := by
  simp only [afterE, h, hc, bne_self_eq_false, Bool.not_false, Bool.or_true, Bool.or_false, Bool.false_eq_true,
    if_false, pcModule_next, State.setPc_pc, true_and]
  rfl

end

/-! ### Where the pipeline stands in the program -/

/-- The address of the oldest instruction that has not passed stage D. -/
def Pipeline.frontPc (p : Pipeline) : Word :=
  match p.inD with
  | some f => f.pc
  | none => p.arch.pc

theorem Pipeline.frontPc_of_inD {p : Pipeline} {f : Fetched} (h : p.inD = some f) : p.frontPc = f.pc := by
  rw [frontPc, h]

theorem Pipeline.frontPc_of_inD_none {p : Pipeline} (h : p.inD = none) : p.frontPc = p.arch.pc := by
  rw [frontPc, h]

theorem Pipeline.nextPc_of_inE {p : Pipeline} {e : Issued} (h : p.inE = some e) : p.nextPc = e.pc := by
  rw [nextPc, h]

theorem Pipeline.nextPc_of_bubble {p : Pipeline} (h : p.inE = none) : p.nextPc = p.frontPc := by
  rw [nextPc, h]
  rfl

/-- Where no transfer is taken, what stands in front of stage E is next, stall or no stall. -/
theorem Pipeline.nextPc_afterE {p : Pipeline} {x : Executed} (c : Signals) (h : x.pcOp = .next) :
    (p.afterE c x).nextPc = p.frontPc := by
  cases hc : c.stall with
  | true =>
    obtain ⟨hpc, hD, hE⟩ := afterE_stall (p := p) h hc
    rw [nextPc_of_bubble hE, frontPc, frontPc, hD, hpc]
  | false =>
    obtain ⟨-, hD', hE'⟩ := afterE_flow (p := p) h hc
    cases hD : p.inD with
    | some f =>
      rw [hD] at hE'
      rw [nextPc_of_inE hE', frontPc_of_inD hD, issue]
    | none =>
      rw [hD] at hE'
      rw [nextPc_of_bubble hE', frontPc_of_inD hD', frontPc_of_inD_none hD]

/-! ### The ISA state -/

/-- The ISA state in its parts. -/
theorem Pipeline.isaState_eq (p : Pipeline) : p.isaState = (p.arch.setRegs p.isaState.regs).setPc p.nextPc := by
  unfold isaState
  cases p.inU <;> rfl

/-- The ISA state after a cycle: stage E's access and result, at the pc where the pipeline then stands. The bank's edge
has written the result of stage U. -/
theorem Pipeline.isaState_afterE {p : Pipeline} {c : Signals} (x : Executed) (h : p.BankServes c) :
    (p.afterE c x).isaState = ((p.isaState.setDmem x.dmem).commit x.result).setPc (p.afterE c x).nextPc := by
  obtain ⟨hcells, -⟩ := h
  rw [bankEdge_cells_eq] at hcells
  have harch : (p.afterE c x).arch = (p.isaState.setDmem x.dmem).setPc (p.afterE c x).arch.pc := by
    rw [isaState_eq p, ← hcells]
    rfl
  calc (p.afterE c x).isaState
      = ((p.afterE c x).arch.commit x.result).setPc (p.afterE c x).nextPc := by
        unfold isaState State.commit
        rfl
    _ = ((p.isaState.setDmem x.dmem).commit x.result).setPc (p.afterE c x).nextPc := by
        rw [harch, State.setPc_commit_setPc]

/-! ### Coherence -/

theorem Pipeline.Coherent.fetched {p : Pipeline} {f : Fetched} (h : p.Coherent) (hf : p.inD = some f) :
    f.word = p.arch.fetchWord f.pc ∧ p.arch.pc = f.pc + 4#32 := by
  obtain ⟨hD, -⟩ := h
  exact hD f hf

theorem Pipeline.Coherent.instr_eq {p : Pipeline} {e : Issued} (h : p.Coherent) (he : p.inE = some e) :
    e.instr = p.arch.fetchInstr e.pc := by
  obtain ⟨-, hE⟩ := h
  obtain ⟨hinstr, -⟩ := hE e he
  exact hinstr

theorem Pipeline.Coherent.operands {p : Pipeline} {e : Issued} {i : Instr} (h : p.Coherent) (he : p.inE = some e)
    (hi : e.instr = .ok i) : e.opA = p.arch.readReg (rsOf i) ∧ e.opB = p.arch.readReg (rtOf i) := by
  obtain ⟨-, hE⟩ := h
  obtain ⟨-, hops, -⟩ := hE e he
  exact hops i hi

theorem Pipeline.Coherent.frontPc_eq {p : Pipeline} {e : Issued} (h : p.Coherent) (he : p.inE = some e) :
    p.frontPc = e.pc + 4#32 := by
  obtain ⟨-, hE⟩ := h
  obtain ⟨-, -, hfront⟩ := hE e he
  exact hfront

/-- A fetch of a word depends on the instruction memory and the parameters alone. -/
theorem fetchWord_congr {s t : State} (himem : t.imem = s.imem) (hcfg : t.cfg = s.cfg) (a : Word) :
    t.fetchWord a = s.fetchWord a := by
  unfold State.fetchWord State.ifetch
  rw [himem, hcfg]

/-- What stage D decodes in a coherent pipeline is the program's instruction. -/
theorem Pipeline.Coherent.decoded_eq {p : Pipeline} {f : Fetched} (h : p.Coherent) (hf : p.inD = some f) :
    p.decoded f = p.arch.fetchInstr f.pc := by
  obtain ⟨hword, -⟩ := h.fetched hf
  unfold decoded State.fetchInstr
  rw [hword]
  cases p.arch.fetchWord f.pc <;> rfl

/-- The bank's read ports are addressed by the fields of the instruction in stage D. -/
theorem Pipeline.bankIn_addr {p : Pipeline} {f : Fetched} {i : Instr} (hf : p.inD = some f)
    (hi : p.decoded f = .ok i) (en : Bool) (draw : Nat) :
    (p.bankIn en draw).addrRa = rsOf i ∧ (p.bankIn en draw).addrRb = rtOf i := by
  simp [bankIn, hf, hi]

/-- Where the bank serves, the operands issued are the registers as the cycle leaves them: those with stage U's result
written (R211). -/
theorem Pipeline.issue_operands {p : Pipeline} {c : Signals} {x : Executed} {f : Fetched} {i : Instr}
    (hserves : p.BankServes c) (hc : c.stall = false) (hf : p.inD = some f) (hi : p.decoded f = .ok i) :
    (p.issue c f).opA = (p.afterE c x).arch.readReg (rsOf i) ∧
    (p.issue c f).opB = (p.afterE c x).arch.readReg (rtOf i) := by
  obtain ⟨hcells, houts⟩ := hserves
  obtain ⟨hA, hB⟩ := houts hc
  obtain ⟨hrs, hrt⟩ := bankIn_addr hf hi true c.rfDraw
  have hregs : (p.afterE c x).arch.regs = (bankEdge p.arch.regs (p.bankIn true c.rfDraw)).cells := hcells
  refine ⟨hA.trans ?_, hB.trans ?_⟩
  · rw [bankEdge_dataRa _ _ rfl, hrs, State.readReg, hregs]
  · rw [bankEdge_dataRb _ _ rfl, hrt, State.readReg, hregs]

/-- Every cycle in which the bank serves keeps a pipeline coherent, whatever stage E gave. -/
theorem Pipeline.Coherent.afterE {p : Pipeline} {c : Signals} (h : p.Coherent) (hserves : p.BankServes c)
    (x : Executed) : (p.afterE c x).Coherent := by
  by_cases htaken : x.pcOp = .next
  · cases hc : c.stall with
    | true =>
      obtain ⟨hpc, hD, hE⟩ := afterE_stall (p := p) htaken hc
      refine ⟨fun f hf => ?_, fun e he => absurd he (by simp [hE])⟩
      obtain ⟨hword, hfpc⟩ := h.fetched (hD.symm.trans hf)
      exact ⟨hword.trans (fetchWord_congr afterE_imem afterE_cfg f.pc).symm, hpc.trans hfpc⟩
    | false =>
      obtain ⟨hpc, hD', hE'⟩ := afterE_flow (p := p) htaken hc
      refine ⟨fun f hf => ?_, fun e he => ?_⟩
      · obtain rfl := Option.some.inj (hD'.symm.trans hf)
        exact ⟨(fetchWord_congr afterE_imem afterE_cfg p.arch.pc).symm, hpc⟩
      · obtain ⟨f, hf, rfl⟩ := Option.map_eq_some_iff.1 (hE'.symm.trans he)
        obtain ⟨-, hfpc⟩ := h.fetched hf
        refine ⟨(h.decoded_eq hf).trans (fetchInstr_congr afterE_imem afterE_cfg f.pc).symm,
          fun i hi => issue_operands hserves hc hf hi, ?_⟩
        exact (frontPc_of_inD hD').trans hfpc
  · obtain ⟨hD, hE⟩ := afterE_flush (p := p) (c := c) htaken
    exact ⟨fun f hf => absurd hf (by simp [hD]), fun e he => absurd he (by simp [hE])⟩

/-! ### A cycle and a step -/

/-- With an instruction in stage E, the ISA step at the state a coherent pipeline stands for is what stage E gives: the
latch holds the program's instruction, and a forwarded operand is the ISA state's register. -/
theorem Pipeline.Coherent.step_eq_outcomeOfE {p : Pipeline} {e : Issued} (h : p.Coherent) (he : p.inE = some e) :
    step p.isaState = p.isaState.outcomeOfE p.stageE := by
  have hpc : p.isaState.pc = e.pc := nextPc_of_inE he
  have hfetch : p.isaState.fetchInstr p.isaState.pc = e.instr := by
    rw [hpc, fetchInstr_congr p.isaState_imem p.isaState_cfg, h.instr_eq he]
  cases hi : e.instr with
  | error f => rw [step_of_fetchInstr_error (hfetch.trans hi), stageE_of_fault he hi, State.outcomeOfE]
  | ok i =>
    obtain ⟨hA, hB⟩ := h.operands he hi
    rw [step_of_fetchInstr (hfetch.trans hi), stageE_of_instr he hi, hA, hB, forward_eq, forward_eq, ← hpc,
      ← execute_congr p.isaState_dmem p.isaState_cfg, exec_eq_outcomeOfE]

/-- A cycle with a bubble in stage E leaves the ISA state as it was. -/
theorem Pipeline.isaState_afterE_of_bubble {p : Pipeline} {c : Signals} {x : Executed} (hserves : p.BankServes c)
    (he : p.inE = none) (hx : p.stageE = .ok x) : (p.afterE c x).isaState = p.isaState := by
  obtain rfl := Except.ok.inj ((stageE_bubble he).symm.trans hx)
  rw [isaState_afterE _ hserves, nextPc_afterE c rfl, ← nextPc_of_bubble he, ← p.isaState_dmem, ← p.isaState_pc]
  rfl

/-- After a cycle with an instruction in stage E the pipeline stands where stage E sent it: at the target of a transfer
taken, and else at the instruction behind it. -/
theorem Pipeline.Coherent.nextPc_afterE_eq {p : Pipeline} {e : Issued} (h : p.Coherent) (he : p.inE = some e)
    (c : Signals) (x : Executed) : (p.afterE c x).nextPc = x.nextPc p.isaState := by
  have hpc : p.isaState.pc = e.pc := nextPc_of_inE he
  by_cases htaken : x.pcOp = .next
  · rw [nextPc_afterE c htaken, h.frontPc_eq he, Executed.nextPc, htaken, pcModule_next, hpc]
  · obtain ⟨hD, hE⟩ := afterE_flush (p := p) (c := c) htaken
    have hipc : p.iPc = targetBase p.arch.cfg e.pc := by rw [iPc, he]
    rw [nextPc_of_bubble hE, frontPc_of_inD_none hD, afterE_pc_of_taken htaken, hipc, Executed.nextPc, hpc,
      isaState_cfg]
    exact pcModule_of_ne_next htaken _ _ _ _ _

/-- A cycle with an instruction in stage E leaves the ISA state with all stage E asks for done. -/
theorem Pipeline.Coherent.isaState_afterE_of_inE {p : Pipeline} {e : Issued} {c : Signals} (h : p.Coherent)
    (hserves : p.BankServes c) (he : p.inE = some e) (x : Executed) :
    (p.afterE c x).isaState = x.applyTo p.isaState := by
  rw [isaState_afterE x hserves, h.nextPc_afterE_eq he, Executed.applyTo]

/-- The bank serves wherever its `i_en` is 1. -/
theorem Pipeline.bankServes_of_rfEn {c : Signals} (h : c.rfEn = true) (p : Pipeline) : p.BankServes c := by
  rw [BankServes, h]
  exact ⟨rfl, fun _ => ⟨rfl, rfl⟩⟩

theorem Pipeline.Coherent.of_cycle {p q : Pipeline} {c : Signals} (h : p.Coherent) (hserves : p.BankServes c)
    (hq : p.cycle c = .ok q) : q.Coherent := by
  obtain ⟨x, -, rfl⟩ := cycle_ok.1 hq
  exact h.afterE hserves x

/-- A cycle with a bubble in stage E executes nothing. -/
theorem Pipeline.isaState_of_cycle_bubble {p q : Pipeline} {c : Signals} (hserves : p.BankServes c)
    (hq : p.cycle c = .ok q) (he : p.inE = none) : q.isaState = p.isaState := by
  obtain ⟨x, hx, rfl⟩ := cycle_ok.1 hq
  exact isaState_afterE_of_bubble hserves he hx

/-- A cycle with an instruction in stage E executes one ISA step. -/
theorem Pipeline.Coherent.step_of_cycle {p q : Pipeline} {c : Signals} (h : p.Coherent) (hserves : p.BankServes c)
    (hq : p.cycle c = .ok q) (he : p.inE ≠ none) : step p.isaState = .next q.isaState := by
  obtain ⟨e, he⟩ := Option.ne_none_iff_exists'.1 he
  obtain ⟨x, hx, rfl⟩ := cycle_ok.1 hq
  rw [h.step_eq_outcomeOfE he, hx, State.outcomeOfE, h.isaState_afterE_of_inE hserves he]

/-- A model fault of a cycle is the ISA step's, whatever the bank does. -/
theorem Pipeline.Coherent.step_of_cycle_error {p : Pipeline} {c : Signals} {f : Fault} (h : p.Coherent)
    (hf : p.cycle c = .error f) : step p.isaState = .fault f := by
  have hx := cycle_error.1 hf
  cases he : p.inE with
  | none => exact absurd ((stageE_bubble he).symm.trans hx) nofun
  | some e => rw [h.step_eq_outcomeOfE he, hx, State.outcomeOfE]

end Sys2Proof.Machine
end

-- ==== Runs of the pipeline ====
section
/-! PROOFS. Runs of the pipeline against runs of the ISA machine, in both directions (R193): each cycle is one ISA step or
none, and without a stall at most two cycles pass before an instruction is in stage E. -/

namespace Sys2Proof.Machine

/-! ### From an empty pipeline -/

@[simp] theorem Pipeline.isaState_empty (s : State) : (Pipeline.empty s).isaState = s := rfl

theorem Pipeline.coherent_empty (s : State) : (Pipeline.empty s).Coherent :=
  ⟨fun _ hf => absurd hf nofun, fun _ he => absurd he nofun⟩

/-! ### Runs -/

theorem Pipeline.run_cons_of_ok {p q : Pipeline} {c : Signals} (cs : List Signals) (hq : p.cycle c = .ok q) :
    p.run (c :: cs) = q.run cs := by
  rw [run, hq]

theorem Pipeline.run_cons_of_error {p : Pipeline} {c : Signals} {f : Fault} (cs : List Signals)
    (hf : p.cycle c = .error f) : p.run (c :: cs) = .error f := by
  rw [run, hf]

/-- A run that gets to a pipeline got there by a first cycle and a shorter run. -/
theorem Pipeline.run_cons_ok {p q : Pipeline} {c : Signals} {cs : List Signals} (h : p.run (c :: cs) = .ok q) :
    ∃ p', p.cycle c = .ok p' ∧ p'.run cs = .ok q := by
  cases hc : p.cycle c with
  | error f => exact absurd ((run_cons_of_error cs hc).symm.trans h) nofun
  | ok p' => exact ⟨p', rfl, (run_cons_of_ok cs hc).symm.trans h⟩

/-- A run that stops does so in its first cycle or in the shorter run after it. -/
theorem Pipeline.run_cons_error {p : Pipeline} {c : Signals} {cs : List Signals} {f : Fault}
    (h : p.run (c :: cs) = .error f) :
    p.cycle c = .error f ∨ ∃ p', p.cycle c = .ok p' ∧ p'.run cs = .error f := by
  cases hc : p.cycle c with
  | error e => exact .inl ((run_cons_of_error cs hc).symm.trans h)
  | ok p' => exact .inr ⟨p', rfl, (run_cons_of_ok cs hc).symm.trans h⟩

/-- A run that gets to a pipeline goes on from there. -/
theorem Pipeline.run_append {p q : Pipeline} {cs : List Signals} (h : p.run cs = .ok q) (ds : List Signals) :
    p.run (cs ++ ds) = q.run ds := by
  induction cs generalizing p with
  | nil =>
    obtain rfl := Except.ok.inj h
    rfl
  | cons c cs ih =>
    obtain ⟨p', hc, hrun⟩ := run_cons_ok h
    exact (run_cons_of_ok (cs ++ ds) hc).trans (ih hrun)

/-! ### A run of the pipeline is a run of the ISA machine -/

/-- Under a schedule that keeps the bank's `i_en` at 1 the bank serves throughout. -/
theorem Pipeline.served_of_rfEn {cs : List Signals} (h : ∀ c ∈ cs, c.rfEn = true) (p : Pipeline) : p.Served cs := by
  induction cs generalizing p with
  | nil => trivial
  | cons c cs ih =>
    obtain ⟨hc, hcs⟩ := List.forall_mem_cons.1 h
    exact ⟨bankServes_of_rfEn hc p, fun q _ => ih hcs q⟩

/-- A cycle is one ISA step or none, in front of whatever the ISA machine runs then. -/
theorem Pipeline.Coherent.run_of_cycle {p q : Pipeline} {c : Signals} (h : p.Coherent) (hserves : p.BankServes c)
    (hq : p.cycle c = .ok q) :
    ∃ k ≤ 1, ∀ n, Host.Core.run Sys2Proof.core (n + k) p.isaState = Host.Core.run Sys2Proof.core n q.isaState := by
  by_cases he : p.inE = none
  · exact ⟨0, by omega, fun n => by rw [isaState_of_cycle_bubble hserves hq he, Nat.add_zero]⟩
  · exact ⟨1, le_rfl, fun n => run_succ_of_next (h.step_of_cycle hserves hq he)⟩

theorem Pipeline.Coherent.run_ok {p q : Pipeline} {cs : List Signals} (h : p.Coherent) (hserved : p.Served cs)
    (hq : p.run cs = .ok q) :
    q.Coherent ∧ ∃ n ≤ cs.length, Host.Core.run Sys2Proof.core n p.isaState = .next q.isaState := by
  induction cs generalizing p with
  | nil =>
    obtain rfl := Except.ok.inj hq
    exact ⟨h, 0, le_rfl, rfl⟩
  | cons c cs ih =>
    obtain ⟨hserves, hrest⟩ := hserved
    obtain ⟨p', hc, hrun⟩ := run_cons_ok hq
    obtain ⟨hcoh, n, hn, hisa⟩ := ih (h.of_cycle hserves hc) (hrest p' hc) hrun
    obtain ⟨k, hk, hstep⟩ := h.run_of_cycle hserves hc
    exact ⟨hcoh, n + k, by rw [List.length_cons]; omega, (hstep n).trans hisa⟩

theorem Pipeline.Coherent.run_error {p : Pipeline} {cs : List Signals} {f : Fault} (h : p.Coherent)
    (hserved : p.Served cs) (hf : p.run cs = .error f) :
    ∃ n < cs.length, ∃ t, Host.Core.run Sys2Proof.core n p.isaState = .next t ∧ step t = .fault f := by
  induction cs generalizing p with
  | nil => exact absurd hf nofun
  | cons c cs ih =>
    obtain ⟨hserves, hrest⟩ := hserved
    obtain hc | ⟨p', hc, hrun⟩ := run_cons_error hf
    · exact ⟨0, Nat.succ_pos _, p.isaState, rfl, h.step_of_cycle_error hc⟩
    · obtain ⟨n, hn, t, hisa, hfault⟩ := ih (h.of_cycle hserves hc) (hrest p' hc) hrun
      obtain ⟨k, hk, hstep⟩ := h.run_of_cycle hserves hc
      exact ⟨n + k, by rw [List.length_cons]; omega, t, (hstep n).trans hisa, hfault⟩

/-! ### A run of the ISA machine is reached by the pipeline -/

/-- What stage E gives with a bubble. -/
def Pipeline.bubble (p : Pipeline) : Executed := ⟨p.arch.dmem, none, .next, 0#32⟩

theorem Pipeline.cycle_of_bubble {p : Pipeline} (h : p.inE = none) (c : Signals) :
    p.cycle c = .ok (p.afterE c p.bubble) :=
  cycle_ok.2 ⟨_, stageE_bubble h, rfl⟩

section

variable {c : Signals} (hstall : c.stall = false) (hen : c.rfEn = true)
include hstall hen

/-- A cycle that executes nothing fetches an instruction, and issues the one in stage D. -/
theorem Pipeline.Coherent.exists_cycle_of_bubble {p : Pipeline} (h : p.Coherent) (he : p.inE = none) :
    ∃ q, p.cycle c = .ok q ∧ q.Coherent ∧ q.isaState = p.isaState ∧ q.inD ≠ none ∧
      (p.inD ≠ none → q.inE ≠ none) := by
  have hserves := bankServes_of_rfEn hen p
  have hcycle := cycle_of_bubble he c
  obtain ⟨-, hD, hE⟩ := afterE_flow (p := p) (x := p.bubble) rfl hstall
  exact ⟨_, hcycle, h.of_cycle hserves hcycle, isaState_of_cycle_bubble hserves hcycle he, by simp [hD],
    by simp [hE]⟩

/-- At most two cycles pass before an instruction is in stage E, and they execute nothing. -/
theorem Pipeline.Coherent.exists_run_to_inE {p : Pipeline} (h : p.Coherent) :
    ∃ k ≤ 2, ∃ q, p.run (List.replicate k c) = .ok q ∧ q.Coherent ∧ q.isaState = p.isaState ∧ q.inE ≠ none := by
  by_cases he : p.inE = none
  · obtain ⟨q, hq, hcoh, hisa, hqD, -⟩ := h.exists_cycle_of_bubble hstall hen he
    by_cases hqE : q.inE = none
    · obtain ⟨r, hr, hcoh', hisa', -, hrE⟩ := hcoh.exists_cycle_of_bubble hstall hen hqE
      have hrun : p.run [c, c] = .ok r := (run_cons_of_ok [c] hq).trans (run_cons_of_ok [] hr)
      exact ⟨2, le_rfl, r, hrun, hcoh', hisa'.trans hisa, hrE hqD⟩
    · exact ⟨1, by omega, q, run_cons_of_ok [] hq, hcoh, hisa, hqE⟩
  · exact ⟨0, by omega, p, rfl, h, rfl, he⟩

/-- An ISA step is reached in at most three cycles. -/
theorem Pipeline.Coherent.exists_run_of_step {p : Pipeline} {t : State} (h : p.Coherent)
    (hstep : step p.isaState = .next t) :
    ∃ k ≤ 3, ∃ q, p.run (List.replicate k c) = .ok q ∧ q.Coherent ∧ q.isaState = t := by
  obtain ⟨k, hk, q, hq, hcoh, hisa, hE⟩ := h.exists_run_to_inE hstall hen
  have hserves := bankServes_of_rfEn hen q
  have hrun := run_append hq [c]
  rw [← List.replicate_succ'] at hrun
  rw [← hisa] at hstep
  cases hc : q.cycle c with
  | ok r =>
    have hr : t = r.isaState := Host.Outcome.next.inj (hstep.symm.trans (hcoh.step_of_cycle hserves hc hE))
    exact ⟨k + 1, by omega, r, hrun.trans (run_cons_of_ok [] hc), hcoh.of_cycle hserves hc, hr.symm⟩
  | error f => exact absurd (hstep.symm.trans (hcoh.step_of_cycle_error hc)) nofun

/-- So is a model fault of the ISA step. -/
theorem Pipeline.Coherent.exists_run_of_step_fault {p : Pipeline} {f : Fault} (h : p.Coherent)
    (hstep : step p.isaState = .fault f) : ∃ k ≤ 3, p.run (List.replicate k c) = .error f := by
  obtain ⟨k, hk, q, hq, hcoh, hisa, hE⟩ := h.exists_run_to_inE hstall hen
  have hserves := bankServes_of_rfEn hen q
  have hrun := run_append hq [c]
  rw [← List.replicate_succ'] at hrun
  rw [← hisa] at hstep
  cases hc : q.cycle c with
  | ok r => exact absurd (hstep.symm.trans (hcoh.step_of_cycle hserves hc hE)) nofun
  | error e =>
    have he : f = e := Host.Outcome.fault.inj (hstep.symm.trans (hcoh.step_of_cycle_error hc))
    exact ⟨k + 1, by omega, hrun.trans ((run_cons_of_error [] hc).trans (by rw [he]))⟩

/-- `n` ISA steps are reached in at most `3·n` cycles. -/
theorem Pipeline.Coherent.exists_run_of_run {p : Pipeline} {t : State} {n : Nat} (h : p.Coherent)
    (hrun : Host.Core.run Sys2Proof.core n p.isaState = .next t) :
    ∃ k ≤ 3 * n, ∃ q, p.run (List.replicate k c) = .ok q ∧ q.Coherent ∧ q.isaState = t := by
  induction n generalizing p with
  | zero => exact ⟨0, by omega, p, rfl, h, Host.Outcome.next.inj hrun⟩
  | succ n ih =>
    obtain ⟨u, hstep, hrest⟩ := run_succ_next.1 hrun
    obtain ⟨j, hj, q, hq, hcoh, rfl⟩ := h.exists_run_of_step hstall hen hstep
    obtain ⟨k, hk, r, hr, hcoh', hisa⟩ := ih hcoh hrest
    refine ⟨j + k, by omega, r, ?_, hcoh', hisa⟩
    rw [List.replicate_add, run_append hq, hr]

end

/-! ### The cost of a transfer (R195, R213) -/

/-- A cycle with a bubble in stage E leaves the data memory. -/
theorem Pipeline.afterE_bubble_dmem (p : Pipeline) (c : Signals) :
    (p.afterE c p.bubble).arch.dmem = p.arch.dmem := rfl

/-- With stages D and E empty nothing can be issued, stall or no stall. -/
theorem Pipeline.afterE_bubble_inE {p : Pipeline} (c : Signals) (hD : p.inD = none) :
    (p.afterE c p.bubble).inE = none := by
  cases hc : c.stall with
  | true =>
    obtain ⟨-, -, hE⟩ := afterE_stall (p := p) (x := p.bubble) rfl hc
    exact hE
  | false =>
    obtain ⟨-, -, hE⟩ := afterE_flow (p := p) (x := p.bubble) rfl hc
    rw [hE, hD]
    rfl

/-- Two cycles without a stall bring the instruction at the fetch address into stage E. -/
theorem Pipeline.inE_after_two_bubbles {p : Pipeline} {c c' : Signals} (hc : c.stall = false)
    (hc' : c'.stall = false) :
    ∃ e, ((p.afterE c p.bubble).afterE c' (p.afterE c p.bubble).bubble).inE = some e ∧ e.pc = p.arch.pc := by
  obtain ⟨-, hD, -⟩ := afterE_flow (p := p) (x := p.bubble) rfl hc
  obtain ⟨-, -, hE⟩ := afterE_flow (p := p.afterE c p.bubble) (x := (p.afterE c p.bubble).bubble) rfl hc'
  rw [hE, hD]
  exact ⟨_, rfl, rfl⟩

/-- Stage E changes the flow for J, JAL, JALR and a taken BEQ alone. -/
theorem pcControl_ne_next_iff (i : Instr) (a b : Word) :
    (pcControl i a b).1 ≠ .next ↔
      (∃ imm26, i = .j imm26 ∨ i = .jal imm26) ∨ (∃ rs rt rd shamt, i = .jalr rs rt rd shamt) ∨
        (∃ rs rt imm16, i = .beq rs rt imm16 ∧ a = b) := by
  cases i
  case beq rs rt imm16 => by_cases h : a = b <;> simp [pcControl, h]
  all_goals simp [pcControl]

end Sys2Proof.Machine
end

-- ==== The end of a run ====
section
/-! PROOFS. The end of a run at a transfer to its own address (R197, D15). -/

namespace Sys2Proof.Machine

/-- Where END_OF_RUN holds, the instruction at pc is a J or a `beq r, r` that targets its own address. -/
theorem atSelfTransfer_cases {s : State} (h : atSelfTransfer s = true) :
    (∃ imm26, s.fetchInstr s.pc = .ok (.j imm26) ∧ jumpTarget s.cfg s.pc imm26 = s.pc) ∨
    (∃ r imm16, s.fetchInstr s.pc = .ok (.beq r r imm16) ∧ branchTarget s.cfg s.pc imm16 = s.pc) := by
  unfold atSelfTransfer at h
  split at h
  next imm26 hfetch => exact .inl ⟨imm26, hfetch, eq_of_beq h⟩
  next rs rt imm16 hfetch =>
    obtain ⟨hr, htarget⟩ := Bool.and_eq_true_iff.1 h
    obtain rfl := eq_of_beq hr
    exact .inr ⟨rs, imm16, hfetch, eq_of_beq htarget⟩
  next => exact absurd h nofun

@[simp] theorem State.setPc_self (s : State) : s.setPc s.pc = s := rfl

/-- There a step changes nothing. -/
theorem step_of_atSelfTransfer {s : State} (h : atSelfTransfer s = true) : step s = .next s := by
  obtain ⟨imm26, hfetch, htarget⟩ | ⟨r, imm16, hfetch, htarget⟩ := atSelfTransfer_cases h
  · rw [step_of_fetchInstr hfetch, exec, execJ, htarget, State.setPc_self]
  · rw [step_of_fetchInstr hfetch, exec, execBeq_of_eq imm16 rfl, htarget, State.setPc_self]

/-- A state that a step leaves as it is stays through every run. -/
theorem run_of_step_self {s : State} (h : step s = .next s) (n : Nat) :
    Host.Core.run Sys2Proof.core n s = .next s := by
  induction n with
  | zero => rfl
  | succ n ih => rw [run_succ_of_next h, ih]

/-- `runUntil` looks at its stop condition first. -/
theorem runUntil_of_stop {stop : State → Bool} {s : State} (h : stop s = true) (n : Nat) :
    runUntil stop n s = some (.next s) := by
  cases n <;> simp [runUntil, h]

end Sys2Proof.Machine
end

-- ==== The statements of 70_reset_and_hazards.md ====
section

namespace Sys2Proof.Proofs

open Sys2Proof.Machine

/-- Settles O51: a cycle is `Pipeline.afterE` of what stage E gives, and stage E gives what the ISA step does. -/
theorem pipelineCycleImplementsStep : Obligations.PipelineCycleImplementsStep := by
  intro p c hcoh
  refine ⟨fun hen => Pipeline.bankServes_of_rfEn hen p, fun hserves q hq => ?_, fun f hf => hcoh.step_of_cycle_error hf⟩
  exact ⟨hcoh.of_cycle hserves hq, Pipeline.isaState_of_cycle_bubble hserves hq, hcoh.step_of_cycle hserves hq⟩

/-- Settles O10: at a self transfer one step gives the same state, so every run does. -/
theorem selfTransferRepeatsForever : Obligations.SelfTransferRepeatsForever := by
  intro s n h
  have hstep := step_of_atSelfTransfer h
  exact ⟨hstep, run_of_step_self hstep n, runUntil_of_stop h n⟩

/-- Settles O46: the sums and differences wrap, the comparisons are exact, the shifts are those of R160, the rest acts on
each bit alone. -/
theorem aluTable : Obligations.AluTable := by
  intro sign arith shamt a b
  refine ⟨BitVec.toNat_add a b, toNat_sub_borrow a b, alu_slt_signed arith shamt a b, alu_slt_unsigned arith shamt a b,
    ?_, ?_, ?_, fun _ _ => BitVec.getLsbD_xor, fun _ _ => BitVec.getLsbD_or, fun _ _ => BitVec.getLsbD_and⟩
  · rw [alu_sl, toNat_shiftLeft]
  · rw [alu_sr_logical, toNat_shiftRightLogical]
  · rw [alu_sr_arith, toInt_shiftRightArith]

/-- Settles O47: such an instruction ends in a write of what the ALU gives (`exec_eq_writeBack_aluOf`). -/
theorem aluComputesTheInstructions : Obligations.AluComputesTheInstructions := by
  refine ⟨fun rs rt imm16 a b => ⟨aluOf_lw rs rt imm16 a b, aluOf_sw rs rt imm16 a b⟩, ?_⟩
  intro i s t d hexec hdest hd hjal hjalr hlw
  obtain rfl := writeBack_next ((exec_eq_writeBack_aluOf s hdest hjal hjalr hlw).symm.trans hexec)
  rw [State.readReg_advance, readReg_writeReg_self hd]

/-- Settles O49, by what an edge does to a location read (`readBank_bankEdge`). -/
theorem registerBankWritesThrough : Obligations.RegisterBankWritesThrough := by
  intro cells i hen
  exact ⟨bankEdge_dataRa cells i hen, bankEdge_dataRb cells i hen, readBank_bankEdge cells i hen,
    readBank_replicate_zero⟩

/-- Settles O52, by induction on the schedule (`Pipeline.Coherent.run_ok`, `Pipeline.Coherent.run_error`). -/
theorem pipelineRunIsMachineRun : Obligations.PipelineRunIsMachineRun := by
  intro schedule s
  have hcoh := Pipeline.coherent_empty s
  refine ⟨fun hen => Pipeline.served_of_rfEn hen _, fun hserved => ⟨fun q hq => ?_, fun f hf => ?_⟩⟩
  · exact hcoh.run_ok hserved hq
  · exact hcoh.run_error hserved hf

/-- Settles O53: each step takes at most three cycles, two of them to bring its instruction into stage E. -/
theorem pipelineReachesEveryMachineState : Obligations.PipelineReachesEveryMachineState := by
  intro c hstall hen n s t hrun
  obtain ⟨k, hk, q, hq, hcoh, rfl⟩ := (Pipeline.coherent_empty s).exists_run_of_run hstall hen hrun
  refine ⟨⟨k, hk, q, hq, rfl⟩, fun f hf => ?_⟩
  obtain ⟨j, hj, hfault⟩ := hcoh.exists_run_of_step_fault hstall hen hf
  exact ⟨k + j, by omega, by rw [List.replicate_add, Pipeline.run_append hq, hfault]⟩

/-- Settles O54: after a flush stages D and E are empty, so two cycles execute nothing; without one, what is in stage D
moves on. -/
theorem takenTransferCostsTwoCycles : Obligations.TakenTransferCostsTwoCycles := by
  refine ⟨pcControl_ne_next_iff, fun p q x c hx hq => ?_⟩
  obtain rfl : p.afterE c x = q := Except.ok.inj ((Pipeline.cycle_ok.2 ⟨x, hx, rfl⟩).symm.trans hq)
  refine ⟨fun htaken => ?_, fun hnext hc => ?_⟩
  · obtain ⟨hD, hE⟩ := Pipeline.afterE_flush (p := p) (c := c) htaken
    refine ⟨Pipeline.afterE_pc_of_taken htaken, hD, hE, fun c' => ?_⟩
    have hE' := Pipeline.afterE_bubble_inE c' hD
    have hdmem := Pipeline.afterE_bubble_dmem (p.afterE c x) c'
    refine ⟨_, Pipeline.cycle_of_bubble hE c', hE', hdmem, fun c'' => ?_⟩
    exact ⟨_, Pipeline.cycle_of_bubble hE' c'', (Pipeline.afterE_bubble_dmem _ c'').trans hdmem,
      Pipeline.inE_after_two_bubbles⟩
  · obtain ⟨-, hD, hE⟩ := Pipeline.afterE_flow (p := p) hnext hc
    rw [hD, hE]
    exact ⟨Option.isSome_map, rfl⟩

/-- Settles O13. -/
theorem assertResetKeepsMemories : Obligations.AssertResetKeepsMemories := by
  intro s
  exact ⟨readBank_replicate_zero, rfl, fun a => rfl, ⟨fun a => rfl, rfl⟩, rfl⟩

/-- Settles O48: the two operations that compute a target are `toNat_pcModule_jump` and `toNat_pcModule_branch`. -/
theorem pcModuleOperations : Obligations.PcModuleOperations := by
  intro reset target iPc pc en op
  exact ⟨rfl, pcModule_disabled reset target iPc pc op, BitVec.toNat_add pc 4#32, rfl,
    toNat_pcModule_jump reset target iPc pc, toNat_pcModule_branch reset target iPc pc⟩

/-- Settles O50. -/
theorem pipelineResetIsMachineReset : Obligations.PipelineResetIsMachineReset := by
  intro p
  have hempty : p.assertReset = Pipeline.empty p.arch.assertReset := rfl
  rw [hempty]
  exact ⟨Pipeline.coherent_empty _, Pipeline.isaState_empty _, rfl⟩

end Sys2Proof.Proofs
end

-- ==== Encoding: the decoder on an encoded word ====
section
/-! PROOFS. The decoder reads from a laid-out word the fields it was laid out from, and so from an encoded instruction that
instruction (R72 to R74, R82). -/

namespace Sys2Proof

/-! ### The fields of a laid-out word (R72 to R76) -/

@[simp] theorem opField_rType (rs rt rd : RegNum) (shamt : Shamt) (funct : BitVec 6) :
    opField (rType rs rt rd shamt funct) = 0b000000#6 := by
  simp (disch := decide) only [opField, rType, BitVec.extractLsb'_append_eq_of_le, BitVec.extractLsb'_eq_self,
    Nat.reduceSub]

/-- An R-type word gives back each of its fields. -/
theorem rType_inj {rs rt rd rs' rt' rd' : RegNum} {shamt shamt' : Shamt} {funct funct' : BitVec 6} :
    rType rs rt rd shamt funct = rType rs' rt' rd' shamt' funct' ↔
      rs = rs' ∧ rt = rt' ∧ rd = rd' ∧ shamt = shamt' ∧ funct = funct' := by
  unfold rType
  change (_ : BitVec (6 + 5 + 5 + 5 + 5 + 6)) = _ ↔ _
  simp only [append_eq_append_iff, true_and, and_assoc]

/-- An I-type word gives back each of its fields. -/
theorem iType_inj {op op' : BitVec 6} {rs rt rs' rt' : RegNum} {imm16 imm16' : Imm16} :
    iType op rs rt imm16 = iType op' rs' rt' imm16' ↔ op = op' ∧ rs = rs' ∧ rt = rt' ∧ imm16 = imm16' := by
  unfold iType
  change (_ : BitVec (6 + 5 + 5 + 16)) = _ ↔ _
  simp only [append_eq_append_iff, and_assoc]

/-- A J-type word gives back each of its fields. -/
theorem jType_inj {op op' : BitVec 6} {imm26 imm26' : Imm26} :
    jType op imm26 = jType op' imm26' ↔ op = op' ∧ imm26 = imm26' :=
  append_eq_append_iff

/-! ### Decoding a laid-out word (R77, R78, R82) -/

theorem decodeRow_rType {rs rt rd : RegNum} {shamt : Shamt} {funct : BitVec 6} {i : Instr}
    (h : decodeFunct funct rs rt rd shamt = some i) : decodeRow (rType rs rt rd shamt funct) = .ok i := by
  have hop := opField_rType rs rt rd shamt funct
  obtain ⟨hrs, hrt, hrd, hshamt, hfunct⟩ := rType_inj.1 (rType_fields hop)
  exact decodeRow_ok.2 (.inl ⟨hop, by rw [hfunct, hrs, hrt, hrd, hshamt, h]⟩)

/-- An `op` of an I-type instruction selects it whatever the bits below would be as `J-imm`. -/
theorem decodeRow_iType {op : BitVec 6} {rs rt : RegNum} {imm16 : Imm16} {i : Instr} (hop : op ≠ 0b000000#6)
    (h : ∀ imm26, decodeOp op rs rt imm16 imm26 = some i) : decodeRow (iType op rs rt imm16) = .ok i := by
  obtain ⟨hop', hrs, hrt, himm⟩ := iType_inj.1 (iType_fields (iType op rs rt imm16))
  exact decodeRow_ok.2 (.inr ⟨by rwa [hop'], by rw [hop', hrs, hrt, himm, h]⟩)

/-- An `op` of a J-type instruction selects it whatever the bits below would be as `rs`, `rt` and `I-imm`. -/
theorem decodeRow_jType {op : BitVec 6} {imm26 : Imm26} {i : Instr} (hop : op ≠ 0b000000#6)
    (h : ∀ rs rt imm16, decodeOp op rs rt imm16 imm26 = some i) : decodeRow (jType op imm26) = .ok i := by
  obtain ⟨hop', himm⟩ := jType_inj.1 (jType_fields (jType op imm26))
  exact decodeRow_ok.2 (.inr ⟨by rwa [hop'], by rw [hop', himm, h]⟩)

/-- The decoder reads from the word of an instruction that instruction, by its format. -/
theorem decodeRow_encode (i : Instr) : decodeRow (encode i) = .ok i := by
  cases i
  case j | jal => exact decodeRow_jType (by decide) fun _ _ _ => rfl
  case jalr | add | sub | sll | srl | sra | sllv | srlv | srav | slt | sltu | xor | or | and =>
    exact decodeRow_rType rfl
  all_goals exact decodeRow_iType (by decide) fun _ => rfl

end Sys2Proof
end

-- ==== The reach of the free signals ====
section
/-! PROOFS. What a cycle of the pipeline makes of the signals the source does not describe (U15, N7, N9). -/

namespace Sys2Proof.Machine

section

variable {c c' : Signals}

/-- A cycle uses the stall, the bank's `i_en` and the free value its edge takes, and no other signal. -/
theorem Pipeline.afterE_congr (hstall : c'.stall = c.stall) (hen : c'.rfEn = c.rfEn) (hdraw : c'.rfDraw = c.rfDraw)
    (p : Pipeline) (x : Executed) : p.afterE c' x = p.afterE c x := by
  simp only [afterE, hstall, hen, hdraw]

/-- Under the same stall only the bank's contents and what is issued to stage E can differ. -/
theorem Pipeline.afterE_eq_of_stall (hstall : c'.stall = c.stall) (p : Pipeline) (x : Executed) :
    p.afterE c' x = { p.afterE c x with
      arch := (p.afterE c x).arch.setRegs (p.afterE c' x).arch.regs, inE := (p.afterE c' x).inE } := by
  simp only [afterE, hstall]
  rfl

/-- Which instruction is issued, and its address, depends on the stall alone. -/
theorem Pipeline.afterE_issued_of_stall (hstall : c'.stall = c.stall) (p : Pipeline) (x : Executed) :
    (p.afterE c' x).inE.map (fun e => (e.pc, e.instr)) = (p.afterE c x).inE.map (fun e => (e.pc, e.instr)) := by
  simp only [afterE, hstall]
  cases x.pcOp != .next || c.stall with
  | true => rfl
  | false => cases p.inD <;> rfl

end

end Sys2Proof.Machine
end

-- ==== The statements of decode and encode and of the free signals ====
section

namespace Sys2Proof.Proofs

open Sys2Proof.Machine

/-- Settles O1: an encoded instruction is read back (`decodeRow_encode`), and STRICT_NA refuses no well-formed one. -/
theorem decodeInvertsEncode : Obligations.DecodeInvertsEncode := by
  intro strict i hwf
  exact decode_ok.2 ⟨decodeRow_encode i, hwf⟩

/-- Settles O2: the decoder reads every bit of a word into a field or a code (`encode_of_decodeRow`). -/
theorem encodeInvertsDecode : Obligations.EncodeInvertsDecode := by
  intro strict w i hdec
  obtain ⟨hrow, hwf⟩ := decode_ok.1 hdec
  exact ⟨encode_of_decodeRow hrow, hwf⟩

/-- Settles O55: stage E raises the faults and sees no free signal; the rest is what a cycle makes of them after stage E. -/
theorem howFarTheFreeSignalsReach : Obligations.HowFarTheFreeSignalsReach := by
  intro p c c'
  refine ⟨fun f => Pipeline.cycle_error.trans Pipeline.cycle_error.symm, fun hstall hen hdraw => ?_,
    fun hstall q hq => ?_⟩
  · simp only [Pipeline.cycle, Pipeline.afterE_congr hstall hen hdraw]
  · obtain ⟨x, hx, rfl⟩ := Pipeline.cycle_ok.1 hq
    exact ⟨p.afterE c' x, Pipeline.cycle_ok.2 ⟨x, hx, rfl⟩, Pipeline.afterE_eq_of_stall hstall p x,
      Pipeline.afterE_issued_of_stall hstall p x⟩

/-- Settles O6, by evaluating the decoder on each word. -/
theorem sampleWordsDecode : Obligations.SampleWordsDecode := by
  unfold Obligations.SampleWordsDecode
  decide

end Sys2Proof.Proofs
end
